-- ==== Sys2Proof/Word.lean ====
section
/-!
DEFINITION. The bit widths of the spec (00_scope.md R8): a byte is 8 bits, a word is 32 bits; a
coordinate field and a colour are 16 bits (30_encoding.md R69).
-/

namespace Sys2Proof

/-- 8 bits. -/
abbrev Byte := BitVec 8

/-- 16 bits: a coordinate or size field, a colour. -/
abbrev Half := BitVec 16

/-- 32 bits: a host register, a request word. -/
abbrev Word := BitVec 32

end Sys2Proof
end

