-- ==== Sys2Proof/Config.lean ====
section
/-!
DEFINITION. What is fixed for one block and what the spec leaves open: the parameter record P of
00_scope.md R6 with the constraints of R7, the initialization table (10_state.md R24, 41_controller.md
R97), and the two free values of the model, the parameters the block was constructed with and the
oracle's answers (10_state.md R31).
-/

namespace Sys2Proof

/-- One entry of INIT_TABLE (10_state.md R24). -/
inductive InitEntry where
  /-- A command byte and its parameter bytes, possibly none. -/
  | cmd (c : Byte) (ps : List Byte)
  /-- A delay of at least `ms` milliseconds. -/
  | wait (ms : Nat)
deriving DecidableEq, Repr, Inhabited

/-- The internal registers of 41_controller.md R97 clause 1, by kind. -/
inductive RegisterKind where
  | gamma
  | power
  | drivingTiming
deriving DecidableEq, Repr, Inhabited

/-- What an entry of INIT_TABLE does, in the words of 41_controller.md R97. The source gives no bytes, so
this is part of the parameter, not computed from the bytes. No behaviour depends on it.
DESIGN CHOICE (log 5), safe. -/
inductive InitRole where
  | sleepOut
  | pixelFormat
  /-- It sets internal registers of these kinds: R97 does not say that each kind has an entry of its own.
  DESIGN CHOICE (log 5), safe. -/
  | registers (kinds : List RegisterKind)
  | positiveGamma
  | negativeGamma
  | inversionOn
  | displayOn
  /-- a wait, or a command R97 does not name -/
  | other
deriving DecidableEq, Repr, Inhabited

/-- The settle delay T_SETTLE (00_scope.md R6). -/
def tSettle : Nat := 120

/-- Does a `Wait(ms)` with `ms ≥ T_SETTLE` come first? -/
def startsWithSettle : List (InitEntry × InitRole) → Bool
  | (.wait ms, _) :: _ => tSettle ≤ ms
  | _ => false

/-- An entry of the gamma block: the positive and negative gamma curve tables. DEDUCED (log 5), safe. -/
def InitRole.inGammaBlock : InitRole → Bool
  | .positiveGamma => true
  | .negativeGamma => true
  | _ => false

/-- 41_controller.md R97 clause 2: a settle wait directly follows each sleep-out entry. -/
def settlesAfterSleepOut : List (InitEntry × InitRole) → Bool
  | [] => true
  | (_, r) :: rest => (r != .sleepOut || startsWithSettle rest) && settlesAfterSleepOut rest

/-- 41_controller.md R97 clause 3: a settle wait directly follows the last entry of the gamma block. -/
def settlesAfterGamma : List (InitEntry × InitRole) → Bool
  | [] => true
  | (_, r) :: rest =>
    (!r.inGammaBlock || rest.any (fun row => row.2.inGammaBlock) || startsWithSettle rest)
      && settlesAfterGamma rest

/-- An entry with a role R97 names is a command, not a wait. -/
def rolesFit : List (InitEntry × InitRole) → Bool
  | [] => true
  | (.wait _, r) :: rest => r == .other && rolesFit rest
  | (.cmd _ _, _) :: rest => rolesFit rest

/-- The role of an entry, as far as one kind of register goes. -/
def InitRole.forKind (k : RegisterKind) : InitRole → InitRole
  | .registers kinds => if kinds.contains k then .registers [k] else .other
  | r => r

/-- The order of 41_controller.md R97 clause 1, as far as one kind of register goes. -/
def requiredRoles (k : RegisterKind) : List InitRole :=
  [.sleepOut, .pixelFormat, .registers [k], .positiveGamma, .negativeGamma, .inversionOn, .displayOn]

/-- 41_controller.md R97 clause 1: registers of each of the three kinds are set, between the pixel format and
the gamma curve tables, by one entry or by several. Which entry sets which kinds, and in which order, is not
fixed. DESIGN CHOICE (log 5), safe. -/
def rolesInOrder (roles : List InitRole) : Bool :=
  [RegisterKind.gamma, .power, .drivingTiming].all fun k =>
    (requiredRoles k).isSublist (roles.map (InitRole.forKind k))

/-- 41_controller.md R97: the constraints on INIT_TABLE, of a table and the roles of its entries. -/
def initTableOk (table : List InitEntry) (roles : List InitRole) : Bool :=
  table.length == roles.length && rolesInOrder roles && rolesFit (table.zip roles)
    && settlesAfterSleepOut (table.zip roles) && settlesAfterGamma (table.zip roles)

/-- The parameter record P (00_scope.md R6). MADCTL_TABLE and the delays are constants, not here. -/
structure Params where
  nativeW : Nat
  nativeH : Nat
  cfgRotation : Nat
  chunkPixels : Nat
  maxTransferBytes : Nat
  initTable : List InitEntry
  initRoles : List InitRole
  /-- The line names; no rule depends on their values. -/
  pinDC : Nat
  pinRST : Nat
  pinCS : Nat
  /-- No rule depends on it. -/
  spiClockHz : Nat
deriving DecidableEq, Repr, Inhabited

/-- The parameter constraints a model must assume (00_scope.md R6, R7; 41_controller.md R97). -/
abbrev Params.Valid (p : Params) : Prop :=
  1 ≤ p.nativeW ∧ p.nativeW ≤ 32767 ∧ 1 ≤ p.nativeH ∧ p.nativeH ≤ 32767 ∧ 1 ≤ p.chunkPixels ∧
    2 * p.chunkPixels ≤ p.maxTransferBytes ∧ initTableOk p.initTable p.initRoles = true

/-- The constructor's arguments (70_reset_and_hazards.md R147): the size is post-rotation. -/
structure DisplayConfig where
  width : Nat
  height : Nat
  rotation : Nat
  pinDC : Nat
  pinRST : Nat
  pinCS : Nat
  spiClockHz : Nat
deriving DecidableEq, Repr, Inhabited

/-- The oracle's answer to one event (10_state.md R31). For a line event `fail` carries nothing; for a
`Write` it carries how many bytes reached the bus. -/
inductive Answer where
  | ok
  | fail (k : Nat)
deriving DecidableEq, Repr, Inhabited

/-- A parameter record that meets the constraints, so that there is one to choose from. Its numbers
are used nowhere else. -/
def Config.someParams : Params where
  nativeW := 320
  nativeH := 480
  cfgRotation := 0
  chunkPixels := 512
  maxTransferBytes := 1024
  initTable := [.cmd 0 [], .wait 120, .cmd 1 [0], .cmd 2 [0], .cmd 3 [0], .cmd 4 [0], .wait 120, .cmd 5 [], .cmd 6 []]
  initRoles := [.sleepOut, .other, .pixelFormat, .registers [.gamma, .power, .drivingTiming], .positiveGamma,
    .negativeGamma, .other, .inversionOn, .displayOn]
  pinDC := 0
  pinRST := 1
  pinCS := 2
  spiClockHz := 0

theorem Config.someParams_valid : Config.someParams.Valid := by decide

/-- FREE VALUE (log 4), safe: some parameter record that meets 00_scope.md R7. Its argument only says that
there is one. -/
opaque Config.choice [Inhabited {p : Params // p.Valid}] : {p : Params // p.Valid}

/-- The parameters this block was constructed with: nothing is known of them but R7. -/
def Config.construction : {p : Params // p.Valid} :=
  @Config.choice ⟨⟨Config.someParams, Config.someParams_valid⟩⟩

/-- FREE VALUE (log 3), safe: the oracle's answer to the event of that number, where State lists none. -/
opaque Config.oracle : Nat → Answer

end Sys2Proof
end

