-- ==== Sys2Proof/Syntax.lean ====
section
/-!
DEFINITION. The instructions: one constructor per row of spec/opcode_table.json, ten host requests
(30_encoding.md R70), the reserved row (R72, R73) and the four panel command bytes (R79).
-/

namespace Sys2Proof

/-- A decoded host request with its operands as the encoding carries them (30_encoding.md R67, R69),
or a command byte the panel reads from the bus (R79). -/
inductive Instr where
  /-- SEND_CMD (40_framer.md R90): the command byte. -/
  | sendCmd (cmd : Byte)
  /-- SEND_DATA (40_framer.md R91): the payload; its length is the operand LEN. -/
  | sendData (payload : List Byte)
  /-- RESET (41_controller.md R93). -/
  | reset
  /-- INITIALIZE (41_controller.md R96). -/
  | initializePanel
  /-- SET_ROTATION (41_controller.md R100): the whole operand word R. -/
  | setRotation (r : Word)
  /-- SET_ADDRESS_WINDOW (41_controller.md R103): four signed 16-bit fields. -/
  | setAddressWindow (x0 y0 x1 y1 : Half)
  /-- CLOSE (41_controller.md R108). -/
  | close
  /-- FILL_REGION (42_pixel_fill.md R117): four signed 16-bit fields and the colour word C. -/
  | fillRegion (x y w h : Half) (color : Word)
  /-- FILL_SCREEN (42_pixel_fill.md R118): the colour word C. -/
  | fillScreen (color : Word)
  /-- SET_PIXEL (42_pixel_fill.md R119): two signed 16-bit fields and the colour word C. -/
  | setPixel (x y : Half) (color : Word)
  /-- RESERVED (30_encoding.md R72, R73): a request with a reserved opcode or reserved bits set,
  with everything it consumes: its header, its operand words, its payload. -/
  | reserved (header : Word) (operands : List Word) (payload : List Byte)
  /-- PANEL_CMD column-address-set, byte 0x2A (30_encoding.md R79, 20_memory.md R57). -/
  | panelColumnAddressSet
  /-- PANEL_CMD row-address-set, byte 0x2B (30_encoding.md R79, 20_memory.md R58). -/
  | panelRowAddressSet
  /-- PANEL_CMD memory-write, byte 0x2C (30_encoding.md R79, 20_memory.md R59). -/
  | panelMemoryWrite
  /-- PANEL_CMD memory-access-control, byte 0x36 (30_encoding.md R79, 20_memory.md R63). -/
  | panelMemoryAccessControl
deriving DecidableEq, Repr

/-- Is it a request of the host (and not a byte the panel reads)? -/
def Instr.isRequest : Instr → Bool
  | .panelColumnAddressSet => false
  | .panelRowAddressSet => false
  | .panelMemoryWrite => false
  | .panelMemoryAccessControl => false
  | _ => true

end Sys2Proof
end

