-- ==== Sys2Proof/Decode.lean ====
section
/-!
DEFINITION. The decoder, total on every sequence of words and bytes (30_encoding.md R67 to R76), the bus
command bytes (R79), and after them the encoder, both written from the tables of 30_encoding.md. A word
sequence with a reserved opcode or reserved bits is rejected by name: it decodes to `Instr.reserved`.
-/

namespace Sys2Proof

/-! ### Fields of a word (30_encoding.md R68, R69) -/

/-- `OPC`, bits 7:0 of the header. -/
def opcode (h : Word) : Byte := h.extractLsb' 0 8

/-- Bits 31:8, reserved in a header and in a `CMDW` operand word. -/
def reservedBits (w : Word) : BitVec 24 := w.extractLsb' 8 24

/-- Bits 15:0: the X field of `XYW`, the W field of `WHW`. -/
def lowHalf (w : Word) : Half := w.extractLsb' 0 16

/-- Bits 31:16: the Y field of `XYW`, the H field of `WHW`. -/
def highHalf (w : Word) : Half := w.extractLsb' 16 16

/-! ### Lengths (30_encoding.md R71) -/

/-- The opcodes of 30_encoding.md R70. -/
def knownOpcodes : List Byte := [0x01#8, 0x02#8, 0x10#8, 0x11#8, 0x12#8, 0x13#8, 0x1F#8, 0x20#8, 0x21#8, 0x22#8]

/-- K, the number of operand words, fixed by the opcode alone (30_encoding.md R71). -/
def operandCount (opc : Byte) : Nat :=
  if opc = 0x01#8 ∨ opc = 0x02#8 ∨ opc = 0x12#8 ∨ opc = 0x21#8 then 1
  else if opc = 0x13#8 ∨ opc = 0x22#8 then 2
  else if opc = 0x20#8 then 3
  else 0

/-- The number of payload bytes: LEN for SEND_DATA, none for any other opcode (30_encoding.md R67, R71).
A SEND_DATA header with reserved bits set consumes its payload too (R73). -/
def payloadLength (h : Word) (operands : List Word) : Nat :=
  if opcode h = 0x02#8 then (operands.getD 0 0#32).toNat else 0

/-! ### Decoding -/

/-- A whole request, header and operand words and payload, as an instruction (30_encoding.md R70, R73, R75). -/
def decodeWhole (h : Word) (operands : List Word) (payload : List Byte) : Instr :=
  if reservedBits h ≠ 0#24 then .reserved h operands payload
  else if opcode h = 0x01#8 then
    if reservedBits (operands.getD 0 0#32) ≠ 0#24 then .reserved h operands payload
    else .sendCmd (opcode (operands.getD 0 0#32))
  else if opcode h = 0x02#8 then .sendData payload
  else if opcode h = 0x10#8 then .reset
  else if opcode h = 0x11#8 then .initializePanel
  else if opcode h = 0x12#8 then .setRotation (operands.getD 0 0#32)
  else if opcode h = 0x13#8 then
    .setAddressWindow (lowHalf (operands.getD 0 0#32)) (highHalf (operands.getD 0 0#32))
      (lowHalf (operands.getD 1 0#32)) (highHalf (operands.getD 1 0#32))
  else if opcode h = 0x1F#8 then .close
  else if opcode h = 0x20#8 then
    .fillRegion (lowHalf (operands.getD 0 0#32)) (highHalf (operands.getD 0 0#32))
      (lowHalf (operands.getD 1 0#32)) (highHalf (operands.getD 1 0#32)) (operands.getD 2 0#32)
  else if opcode h = 0x21#8 then .fillScreen (operands.getD 0 0#32)
  else if opcode h = 0x22#8 then
    .setPixel (lowHalf (operands.getD 0 0#32)) (highHalf (operands.getD 0 0#32)) (operands.getD 1 0#32)
  else .reserved h operands payload

/-- What the words on `REQ` and the bytes on `PAYLOAD` hold at their front (20_memory.md R39). -/
inductive Decoded where
  /-- Not all words and bytes of a request have been written. -/
  | incomplete
  /-- A whole request, and the words and bytes after it. -/
  | complete (i : Instr) (words : List Word) (payload : List Byte)
deriving DecidableEq, Repr

/-- Take the request at the front of the streams (30_encoding.md R67, R71). -/
def decodeRequest (words : List Word) (payload : List Byte) : Decoded :=
  match words with
  | [] => .incomplete
  | h :: rest =>
    let k := operandCount (opcode h)
    if rest.length < k then .incomplete
    else
      let n := payloadLength h (rest.take k)
      if payload.length < n then .incomplete
      else .complete (decodeWhole h (rest.take k) (payload.take n)) (rest.drop k) (payload.drop n)

/-- The panel command bytes of 30_encoding.md R79. Every other byte is no row of the opcode table; the panel
reads it by 20_memory.md R64. -/
def decodeCommandByte (b : Byte) : Option Instr :=
  if b = 0x2A#8 then some .panelColumnAddressSet
  else if b = 0x2B#8 then some .panelRowAddressSet
  else if b = 0x2C#8 then some .panelMemoryWrite
  else if b = 0x36#8 then some .panelMemoryAccessControl
  else none

/-! ### Encoding -/

/-- The words an instruction puts on `REQ` (30_encoding.md R67 to R70); a panel command has none.
A payload too long for LEN is ill-formed (`Instr.wf`), and the LEN written for it is its count modulo 2^32; no
line of the assembler comes to it. DESIGN CHOICE (log 16), safe. -/
def encode : Instr → List Word
  | .sendCmd cmd => [0x01#32, cmd.setWidth 32]
  | .sendData payload => [0x02#32, BitVec.ofNat 32 payload.length]
  | .reset => [0x10#32]
  | .initializePanel => [0x11#32]
  | .setRotation r => [0x12#32, r]
  | .setAddressWindow x0 y0 x1 y1 => [0x13#32, y0 ++ x0, y1 ++ x1]
  | .close => [0x1F#32]
  | .fillRegion x y w h color => [0x20#32, y ++ x, h ++ w, color]
  | .fillScreen color => [0x21#32, color]
  | .setPixel x y color => [0x22#32, y ++ x, color]
  | .reserved header operands _ => header :: operands
  | .panelColumnAddressSet => []
  | .panelRowAddressSet => []
  | .panelMemoryWrite => []
  | .panelMemoryAccessControl => []

/-- The bytes an instruction puts on `PAYLOAD` (30_encoding.md R67). -/
def encodePayload : Instr → List Byte
  | .sendData payload => payload
  | .reserved _ _ payload => payload
  | _ => []

/-- The byte of a panel command (30_encoding.md R79); a host request has none. -/
def encodeCommandByte : Instr → Option Byte
  | .panelColumnAddressSet => some 0x2A#8
  | .panelRowAddressSet => some 0x2B#8
  | .panelMemoryWrite => some 0x2C#8
  | .panelMemoryAccessControl => some 0x36#8
  | _ => none

/-! ### The opcode table's numbering -/

/-- The header and operand words of an instruction whose low `nbits` bits are `w` and whose other bits are
0, for the longest request: four words. Bit 0 is the least significant bit of the first word. -/
def tableWords (nbits w : Nat) : List Word :=
  let v := w % 2 ^ nbits
  [BitVec.ofNat 32 v, BitVec.ofNat 32 (v / 2 ^ 32), BitVec.ofNat 32 (v / 2 ^ 64), BitVec.ofNat 32 (v / 2 ^ 96)]

/-- The header of those words. -/
def tableHeader (nbits w : Nat) : Word := (tableWords nbits w).getD 0 0

/-- The operand words of that request. -/
def tableOperands (nbits w : Nat) : List Word :=
  ((tableWords nbits w).drop 1).take (operandCount (opcode (tableHeader nbits w)))

/-- The payload of that request: LEN bytes of zeros. -/
def tablePayload (nbits w : Nat) : List Byte :=
  List.replicate (payloadLength (tableHeader nbits w) (tableOperands nbits w)) 0#8

/-- The panel command of an 8-bit row, where the byte is one (30_encoding.md R79). -/
def tableCommand (nbits w : Nat) : Option Instr :=
  if nbits ≤ 8 then decodeCommandByte (BitVec.ofNat 8 (w % 2 ^ nbits)) else none

/-- What the decoder reads from an instruction whose bits are `w` as spec/opcode_table.json numbers them:
an 8-bit row is a panel command byte, a longer one is a request. -/
def decodeTableWord (nbits w : Nat) : Option Instr :=
  match tableCommand nbits w with
  | some i => some i
  | none =>
    match decodeRequest (tableHeader nbits w :: tableOperands nbits w) (tablePayload nbits w) with
    | .complete i _ _ => some i
    | .incomplete => none

end Sys2Proof
end

