-- ==== Sys2Proof/Machine/Operands.lean ====
section
/-!
DEFINITION. The operand forms and the pure arithmetic over them: signed fields, the rotation index, the
logical frame, the byte layouts of the bus, the bounds check, the clip and the chunks of a fill. All
arithmetic is on integers, with no wrap-around (00_scope.md R9).
-/

namespace Sys2Proof.Machine

/-! ### Operand fields (30_encoding.md R69, R74, R76) -/

/-- A 16-bit field as a two's-complement integer (00_scope.md R8). -/
abbrev s16 (v : Half) : Int := v.toInt

/-- The rotation index R mod 4 = R[1:0]; R[31:2] is ignored (30_encoding.md R74). -/
def rotationIndex (r : Word) : BitVec 2 := r.extractLsb' 0 2

/-- The colour c16 = C[15:0]; C[31:16] has no effect (42_pixel_fill.md R113). -/
def colour16 (color : Word) : Half := color.extractLsb' 0 16

/-! ### Constants (00_scope.md R6) -/

/-- MADCTL_TABLE, indexed by rotation index (30_encoding.md R80). -/
def madctlByte (rot : BitVec 2) : Byte :=
  if rot = 0#2 then 0x48#8 else if rot = 1#2 then 0x28#8 else if rot = 2#2 then 0x88#8 else 0xE8#8

/-- The index at which MADCTL_TABLE holds the byte, if one does. -/
def madctlIndex (b : Byte) : Option (BitVec 2) :=
  if b = 0x48#8 then some 0#2 else if b = 0x28#8 then some 1#2 else if b = 0x88#8 then some 2#2
  else if b = 0xE8#8 then some 3#2 else none

/-- T_RST_HIGH1, in ms. -/
def tRstHigh1 : Nat := 50

/-- T_RST_LOW, in ms. -/
def tRstLow : Nat := 100

/-- T_RST_HIGH2, in ms. -/
def tRstHigh2 : Nat := 50

/-! ### The logical frame (10_state.md R20) -/

/-- S.W as a function of the rotation index. -/
def frameW (p : Params) (rot : BitVec 2) : Nat := if rot.toNat % 2 = 0 then p.nativeW else p.nativeH

/-- S.H as a function of the rotation index. -/
def frameH (p : Params) (rot : BitVec 2) : Nat := if rot.toNat % 2 = 0 then p.nativeH else p.nativeW

/-! ### Bus byte layouts (00_scope.md R11, 20_memory.md R45, R46) -/

/-- The high byte of a 16-bit value. -/
def hiByte (v : Half) : Byte := v.extractLsb' 8 8

/-- The low byte of a 16-bit value. -/
def loByte (v : Half) : Byte := v.extractLsb' 0 8

/-- A 16-bit value on the bus, high byte first (30_encoding.md R81, R82). -/
def bigEndian (v : Half) : List Byte := [hiByte v, loByte v]

/-- The 4 data bytes of 0x2A and 0x2B: a pair of coordinates (30_encoding.md R79). -/
def coordinateBytes (v0 v1 : Nat) : List Byte := bigEndian (BitVec.ofNat 16 v0) ++ bigEndian (BitVec.ofNat 16 v1)

/-- A 16-bit value from its two bytes, the first the high one (20_memory.md R57, R60). -/
def fromBigEndian (hb lb : Byte) : Half := hb ++ lb

/-- `rep(pair(c16), n)`: the byte pair of a colour n times (00_scope.md R11, 42_pixel_fill.md R113). -/
def repeatedPair (c : Half) (n : Nat) : List Byte := (List.replicate n (bigEndian c)).flatten

/-! ### Bounds and clipping -/

/-- `InFrame` (41_controller.md R104), of a window in a frame of the given size. -/
def inFrame (w h : Nat) (x0 y0 x1 y1 : Int) : Bool :=
  decide (0 ≤ x0 ∧ x0 ≤ x1 ∧ x1 < w ∧ 0 ≤ y0 ∧ y0 ≤ y1 ∧ y1 < h)

/-- A rectangle inside the frame. -/
structure Rect where
  x : Nat
  y : Nat
  w : Nat
  h : Nat
deriving DecidableEq, Repr

/-- `Clip` (42_pixel_fill.md R114), of a rectangle to a frame of the given size; none is EMPTY. -/
def clip (frameWidth frameHeight : Nat) (x y w h : Int) : Option Rect :=
  let cx0 := max x 0
  let cy0 := max y 0
  let cx1 := min (x + w) frameWidth
  let cy1 := min (y + h) frameHeight
  let cw := cx1 - cx0
  let ch := cy1 - cy0
  if cw ≤ 0 ∨ ch ≤ 0 then none else some ⟨cx0.toNat, cy0.toNat, cw.toNat, ch.toNat⟩

/-- The payloads of the pixel data transactions of a fill of `pixels` pixels (42_pixel_fill.md R115): the
full chunks, then the remainder if there is one. -/
def pixelChunks (chunkPixels pixels : Nat) (c : Half) : List (List Byte) :=
  List.replicate (pixels / chunkPixels) (repeatedPair c chunkPixels) ++
    (if pixels % chunkPixels = 0 then [] else [repeatedPair c (pixels % chunkPixels)])

end Sys2Proof.Machine
end

