-- ==== Sys2Proof/Machine/State.lean ====
section
/-!
DEFINITION. The state of the machine as plain data: the block's record S (10_state.md R17), the panel
observation state PM (20_memory.md R54), and around them what the spec makes arguments and results of the
step exec(P, S, req, orc) = (S', res, evs) (10_state.md R30): the parameters, the oracle's answers, the
host's stream and the output trace. DESIGN CHOICE (log 2), safe.
-/

namespace Sys2Proof.Machine

/-! ### The block's record S -/

/-- The values of S.STATE (10_state.md R18). -/
inductive Lifecycle where
  | uninitialized
  | resetting
  | configuring
  | ready
  | faulted
  | closed
deriving DecidableEq, Repr

/-- The result codes (10_state.md R21). -/
inductive ErrCode where
  | none
  | transport
  | lineControl
  | bounds
  | notPermitted
  | illegal
deriving DecidableEq, Repr

/-- The output lines (20_memory.md R40). -/
inductive LineName where
  | dc
  | rst
  | cs
deriving DecidableEq, Repr

/-- A level of a line. -/
inductive Level where
  | low
  | high
deriving DecidableEq, Repr

/-- A line shadow (10_state.md R25): the last level driven, or UNKNOWN. -/
inductive Shadow where
  | known (lv : Level)
  | unknown
deriving DecidableEq, Repr

/-- The block's state record S (10_state.md R17). -/
structure Block where
  /-- S.STATE -/
  state : Lifecycle
  /-- S.ROT -/
  rot : BitVec 2
  /-- S.LAST_ERR -/
  lastErr : ErrCode
  /-- S.LINE_DC -/
  lineDC : Shadow
  /-- S.LINE_RST -/
  lineRST : Shadow
  /-- S.LINE_CS -/
  lineCS : Shadow
  /-- S.CLAIMED -/
  claimed : Bool
deriving DecidableEq, Repr

/-! ### The panel's frame memory -/

/-- A known pixel of the framebuffer (20_memory.md R54). -/
structure Pixel where
  x : Nat
  y : Nat
  colour : Half
deriving DecidableEq, Repr

/-- Row-major order, top-left first. -/
abbrev Pixel.before (a b : Pixel) : Prop := a.y < b.y ∨ (a.y = b.y ∧ a.x < b.x)

/-- The framebuffer PM.FB: the pixels that are known. -/
abbrev Memory := List Pixel

/-- What an unlisted pixel reads as: unknown (20_memory.md R54; log 17). -/
def Memory.unlisted : Option Half := none

/-- The one canonical form: positions strictly rising. An entry always holds a colour, so none is listed
that equals what an unlisted pixel reads as. -/
abbrev Memory.wf (m : Memory) : Prop := m.Pairwise Pixel.before

/-! ### The panel observation state PM -/

/-- A column or row range latched by 0x2A or 0x2B (20_memory.md R57, R58). -/
structure Span where
  first : Nat
  last : Nat
deriving DecidableEq, Repr

/-- The panel observation state PM (20_memory.md R54). -/
structure Panel where
  live : Bool
  cmd : Option Byte
  args : List Byte
  cols : Option Span
  rows : Option Span
  madctl : Option Byte
  wptr : Nat
  half : Option Byte
  fb : Memory
deriving DecidableEq, Repr

/-- Every content unknown (20_memory.md R54), with the given `live`. -/
def Panel.blank (live : Bool) : Panel where
  live := live
  cmd := none
  args := []
  cols := none
  rows := none
  madctl := none
  wptr := 0
  half := none
  fb := []

/-- "Indeterminate": contents unknown and not live (20_memory.md R54). -/
def Panel.indeterminate : Panel := Panel.blank false

/-! ### Channels -/

/-- An output event (20_memory.md R42). -/
inductive Event where
  | setLine (l : LineName) (lv : Level) (ok : Bool)
  /-- `sent` is none on success, some k when k bytes reached the bus. -/
  | write (bs : List Byte) (sent : Option Nat)
  | release (l : LineName) (ok : Bool)
  | delay (ms : Nat)
deriving DecidableEq, Repr

/-- A byte on the bus with the level of DC it is sent under (20_memory.md R56). -/
structure BusByte where
  dc : Level
  byte : Byte
deriving DecidableEq, Repr

/-- A host access to a register at a byte offset (20_memory.md R38, R39). -/
inductive HostAccess where
  | read (offset : BitVec 4)
  | write (offset : BitVec 4) (w : Word)
deriving DecidableEq, Repr

/-! ### The machine -/

/-- The machine's state. -/
structure State where
  /-- P, the parameters the block was constructed with (00_scope.md R6). No step changes it. -/
  params : Params
  /-- S (10_state.md R17). -/
  block : Block
  /-- PM (20_memory.md R54). -/
  panel : Panel
  /-- The run's trace, oldest event first (20_memory.md R42). -/
  trace : List Event
  /-- The oracle's next answers (10_state.md R31). After the last of them the answers are
  `Config.oracle`'s, a free value. DESIGN CHOICE (log 3), safe. -/
  answers : List Answer
  /-- How many answers the block has asked for, the number `Config.oracle` is applied to. -/
  asked : Nat
  /-- Bytes on the bus that the panel has not read; empty whenever a request starts (20_memory.md R50).
  DESIGN CHOICE (log 9), safe. -/
  bus : List BusByte
  /-- The host's register accesses to come, in order (10_state.md R34, 20_memory.md R39). -/
  accesses : List HostAccess
  /-- Words written to REQ for the request being supplied (20_memory.md R38, R39); empty once it has run
  (10_state.md R17, R27). -/
  req : List Word
  /-- Bytes written to PAYLOAD for the request being supplied (20_memory.md R38, R39); empty once it has run
  (10_state.md R17, R27). -/
  payload : List Byte
  /-- What the host's reads have returned, oldest first (20_memory.md R39). -/
  readData : List Word
deriving DecidableEq, Repr

/-- Why the machine stops. -/
inductive Fault where
  /-- Raised by a host access at an offset that is no multiple of 4: the block has no such access
  (20_memory.md R39). Safe: nothing is claimed of it (log 8). -/
  | unalignedHostAccess
deriving DecidableEq, Repr

/-- Why an instruction has no meaning. -/
inductive Refusal where
  /-- Raised by `exec` alone, for an instruction that has no meaning yet; safe. No arm raises it. -/
  | notModelled (mnemonic : String)
deriving DecidableEq, Repr

/-! ### Construction, the block's only reset -/

/-- The parameters of a block constructed with the given configuration: the given size is
post-rotation (70_reset_and_hazards.md R147). -/
def constructParams (c : DisplayConfig) (chunkPixels maxTransferBytes : Nat) (table : List InitEntry)
    (roles : List InitRole) : Params where
  nativeW := if c.rotation % 2 = 0 then c.width else c.height
  nativeH := if c.rotation % 2 = 0 then c.height else c.width
  cfgRotation := c.rotation
  chunkPixels := chunkPixels
  maxTransferBytes := maxTransferBytes
  initTable := table
  initRoles := roles
  pinDC := c.pinDC
  pinRST := c.pinRST
  pinCS := c.pinCS
  spiClockHz := c.spiClockHz

/-- The state after a successful construction (10_state.md R28); nothing has been emitted (R147) and the
host has done nothing. -/
def State.constructed (p : Params) : State where
  params := p
  block :=
    { state := .uninitialized
      rot := BitVec.ofNat 2 p.cfgRotation
      lastErr := .none
      lineDC := .unknown
      lineRST := .unknown
      lineCS := .unknown
      claimed := true }
  panel := Panel.indeterminate
  trace := []
  answers := []
  asked := 0
  bus := []
  accesses := []
  req := []
  payload := []
  readData := []

/-- Construction with its outcome: when a line cannot be claimed or the transport cannot be opened, no
block exists (70_reset_and_hazards.md R148). -/
def State.construct? (p : Params) (claimsOk openOk : Bool) : Option State :=
  if claimsOk && openOk then some (State.constructed p) else none

/-- The machine right after reset: constructed, with parameters of which only 00_scope.md R7 is known. -/
def State.reset : State := State.constructed Config.construction.val

end Sys2Proof.Machine
end

