-- ==== Sys2Proof/Machine/Flags.lean ====
section
/-!
DEFINITION. The status a request leaves and the host sees. The block has no condition codes: S.LAST_ERR is
the only status (10_state.md R35). The read-only registers STATUS and GEOMETRY are views of S (R22, R23).
-/

namespace Sys2Proof.Machine

/-- The code of S.STATE (10_state.md R18). -/
def stateCode : Lifecycle → BitVec 3
  | .uninitialized => 0
  | .resetting => 1
  | .configuring => 2
  | .ready => 3
  | .faulted => 4
  | .closed => 5

/-- The code of a result (10_state.md R21). -/
def errCode : ErrCode → BitVec 4
  | .none => 0
  | .transport => 1
  | .lineControl => 2
  | .bounds => 3
  | .notPermitted => 4
  | .illegal => 5

/-- STATUS: LAST_ERR in bits 11:8, ROT in bits 5:4, STATE in bits 2:0, the rest 0 (10_state.md R22). -/
def statusWord (b : Block) : Word :=
  (0#20 ++ errCode b.lastErr ++ 0#2 ++ b.rot ++ 0#1 ++ stateCode b.state).cast (by decide)

/-- S.W (10_state.md R20). -/
def State.width (s : State) : Nat := frameW s.params s.block.rot

/-- S.H (10_state.md R20). -/
def State.height (s : State) : Nat := frameH s.params s.block.rot

/-- GEOMETRY: HEIGHT in bits 31:16, WIDTH in bits 15:0 (10_state.md R23). -/
def geometryWord (s : State) : Word := BitVec.ofNat 16 s.height ++ BitVec.ofNat 16 s.width

/-- Write S.LAST_ERR (10_state.md R21). -/
def State.setErr (s : State) (e : ErrCode) : State := { s with block := { s.block with lastErr := e } }

end Sys2Proof.Machine
end

