-- ==== Sys2Proof/Machine/PanelModel.lean ====
section
/-!
DEFINITION. The panel observation model (20_memory.md R53 to R66): the framebuffer's operations, and what
each byte the panel reads does to PM. Where the source is silent a content becomes unknown, never a chosen
value (R53).
-/

namespace Sys2Proof.Machine

/-! ### The framebuffer -/

/-- Is it the pixel at (x, y)? -/
def Pixel.isAt (x y : Nat) (p : Pixel) : Bool := p.x == x && p.y == y

/-- PM.FB(x, y): the pixel's colour, or none when it is unknown (20_memory.md R54). -/
def Memory.read (m : Memory) (x y : Nat) : Option Half :=
  match m.find? (Pixel.isAt x y) with
  | some p => some p.colour
  | none => Memory.unlisted

/-- `MemWrite((x, y), 2, v)` (00_scope.md R10): the pixel's colour becomes known. -/
def Memory.write : Memory → Nat → Nat → Half → Memory
  | [], x, y, v => [⟨x, y, v⟩]
  | p :: m, x, y, v =>
    if p.y < y ∨ (p.y = y ∧ p.x < x) then p :: Memory.write m x y v
    else if p.x = x ∧ p.y = y then ⟨x, y, v⟩ :: m
    else ⟨x, y, v⟩ :: p :: m

/-- The pixel at (x, y) becomes unknown. -/
def Memory.forget (m : Memory) (x y : Nat) : Memory := m.filter (fun p => !p.isAt x y)

/-- Every pixel of a window becomes unknown (20_memory.md R60, R61). -/
def Memory.forgetWindow (m : Memory) (cols rows : Span) : Memory :=
  m.filter fun p => !decide (cols.first ≤ p.x ∧ p.x ≤ cols.last ∧ rows.first ≤ p.y ∧ p.y ≤ rows.last)

/-! ### Whole-state changes -/

/-- "Contents unknown": `live` keeps its value (20_memory.md R54). -/
def Panel.contentsUnknown (p : Panel) : Panel := Panel.blank p.live

/-- The panel after a completed reset pulse (20_memory.md R55). -/
def Panel.afterReset : Panel := Panel.blank true

/-- The effect of an event that by itself changes nothing: a panel that is not live stays indeterminate
(20_memory.md R55), and CS and DC levels leave the contents as they are (R62). -/
def Panel.settle (p : Panel) : Panel := if p.live then p else Panel.indeterminate

/-! ### Pixels -/

/-- A window the panel can place pixels in. -/
structure Window where
  cols : Span
  rows : Span
deriving DecidableEq, Repr

/-- The number of pixels in a row of the window. -/
def Window.rowPixels (w : Window) : Nat := w.cols.last - w.cols.first + 1

/-- N, the number of pixels of the window (20_memory.md R60, R61). -/
def Window.pixels (w : Window) : Nat := w.rowPixels * (w.rows.last - w.rows.first + 1)

/-- The column of the window's pixel number n, row-major from the top left (20_memory.md R60). -/
def Window.column (w : Window) (n : Nat) : Nat := w.cols.first + n % w.rowPixels

/-- The row of the window's pixel number n. -/
def Window.row (w : Window) (n : Nat) : Nat := w.rows.first + n / w.rowPixels

/-- The ranges the panel holds, when both are known and not reversed. -/
def Panel.ranges (p : Panel) : Option Window :=
  match p.cols, p.rows with
  | some c, some r => if c.first ≤ c.last ∧ r.first ≤ r.last then some ⟨c, r⟩ else none
  | _, _ => none

/-- The rotation index whose memory-access-control byte the panel holds (20_memory.md R60). -/
def Panel.rotation (p : Panel) : Option (BitVec 2) := p.madctl.bind madctlIndex

/-- The window of the pixel stream: the condition of 20_memory.md R60. -/
def Panel.window (cfg : Params) (p : Panel) : Option Window :=
  match p.ranges, p.rotation with
  | some w, some i => if w.cols.last < frameW cfg i ∧ w.rows.last < frameH cfg i then some w else none
  | _, _ => none

/-- A whole pixel of the stream (20_memory.md R60, R61). -/
def Panel.pixel (cfg : Params) (v : Half) (p : Panel) : Panel :=
  match p.window cfg with
  | some w =>
    if p.wptr < w.pixels then
      { p with half := none, fb := p.fb.write (w.column p.wptr) (w.row p.wptr) v, wptr := p.wptr + 1 }
    else { p with half := none, fb := p.fb.forgetWindow w.cols w.rows, wptr := p.wptr + 1 }
  | none => p.contentsUnknown

/-- A command byte drops a half pixel of the stream: the pixel at position PM.wptr becomes unknown if it
lies in the frame (20_memory.md R66), by the formula of R60 at every write position. DEDUCED (log 12), safe.
Where PM does not fix that position or the frame, every pixel becomes unknown. DESIGN CHOICE (log 11), safe. -/
def Panel.dropHalf (cfg : Params) (p : Panel) : Panel :=
  if p.cmd = some 0x2C#8 ∧ p.half ≠ none then
    match p.ranges, p.rotation with
    | some w, some i =>
      if w.column p.wptr < frameW cfg i ∧ w.row p.wptr < frameH cfg i then
        { p with half := none, fb := p.fb.forget (w.column p.wptr) (w.row p.wptr) }
      else { p with half := none }
    | _, _ => { p with half := none, fb := [] }
  else p

/-! ### Command bytes -/

/-- 0x2A, column address set (20_memory.md R57). -/
def Panel.columnAddressSet (p : Panel) : Panel := { p with cmd := some 0x2A#8, args := [], cols := none }

/-- 0x2B, row address set (20_memory.md R58). -/
def Panel.rowAddressSet (p : Panel) : Panel := { p with cmd := some 0x2B#8, args := [], rows := none }

/-- 0x2C, memory write: the ranges are kept (20_memory.md R59). -/
def Panel.memoryWrite (p : Panel) : Panel := { p with cmd := some 0x2C#8, wptr := 0, half := none }

/-- 0x36, memory access control (20_memory.md R63). -/
def Panel.memoryAccessControl (p : Panel) : Panel := { p with cmd := some 0x36#8, args := [] }

/-- Any other command byte: contents unknown, in the context of that command (20_memory.md R64). -/
def Panel.otherCommand (c : Byte) (p : Panel) : Panel := { p.contentsUnknown with cmd := some c }

/-- The panel reads a command byte (20_memory.md R55, R57 to R59, R63, R64, R66). -/
def Panel.command (cfg : Params) (c : Byte) (p : Panel) : Panel :=
  if p.live then
    if c = 0x2A#8 then (p.dropHalf cfg).columnAddressSet
    else if c = 0x2B#8 then (p.dropHalf cfg).rowAddressSet
    else if c = 0x2C#8 then (p.dropHalf cfg).memoryWrite
    else if c = 0x36#8 then (p.dropHalf cfg).memoryAccessControl
    else p.otherCommand c
  else Panel.indeterminate

/-! ### Data bytes -/

/-- The range the data bytes after 0x2A or 0x2B give: latched by the fourth, lost by a fifth
(20_memory.md R57). -/
def latchSpan (args : List Byte) (old : Option Span) : Option Span :=
  match args with
  | [a, b, c, d] => some ⟨(fromBigEndian a b).toNat, (fromBigEndian c d).toNat⟩
  | _ => if args.length < 4 then old else none

/-- A data byte after 0x36: the first is the memory-access-control byte and makes the frame unknown, a
second makes the byte unknown (20_memory.md R63). -/
def Panel.accessControlData (b : Byte) (p : Panel) : Panel :=
  if p.args = [] then { p with args := [b], madctl := some b, fb := [] }
  else { p with args := p.args ++ [b], madctl := none }

/-- A data byte of the pixel stream (20_memory.md R60). -/
def Panel.streamData (cfg : Params) (b : Byte) (p : Panel) : Panel :=
  match p.half with
  | none => { p with half := some b }
  | some hb => p.pixel cfg (fromBigEndian hb b)

/-- The panel reads a data byte (20_memory.md R55, R57, R58, R60, R63, R64, R66). After another command
the contents stay unknown and the context stays. DEDUCED (log 13), safe. -/
def Panel.data (cfg : Params) (b : Byte) (p : Panel) : Panel :=
  if p.live then
    match p.cmd with
    | none => p.contentsUnknown
    | some c =>
      if c = 0x2A#8 then { p with args := p.args ++ [b], cols := latchSpan (p.args ++ [b]) p.cols }
      else if c = 0x2B#8 then { p with args := p.args ++ [b], rows := latchSpan (p.args ++ [b]) p.rows }
      else if c = 0x2C#8 then p.streamData cfg b
      else if c = 0x36#8 then p.accessControlData b
      else p.otherCommand c
  else Panel.indeterminate

/-! ### Bytes and writes -/

/-- The panel reads one byte: a command byte under DC LOW, a data byte under DC HIGH (20_memory.md R56). -/
def Panel.readByte (cfg : Params) (dc : Level) (b : Byte) (p : Panel) : Panel :=
  match dc with
  | .low => p.command cfg b
  | .high => p.data cfg b

/-- The panel reads the bytes of a successful `Write`, in order (20_memory.md R43, R56). -/
def Panel.readBytes (cfg : Params) (dc : Level) (bs : List Byte) (p : Panel) : Panel :=
  bs.foldl (fun q b => q.readByte cfg dc b) p.settle

/-- A successful `Write` with the line shadows it was made under: with CS not LOW or DC UNKNOWN the
contents become unknown (20_memory.md R56). -/
def Panel.seesWrite (cfg : Params) (cs dc : Shadow) (bs : List Byte) (p : Panel) : Panel :=
  if cs = .known .low then
    match dc with
    | .known lv => p.readBytes cfg lv bs
    | .unknown => p.contentsUnknown
  else p.contentsUnknown

end Sys2Proof.Machine
end

