-- ==== Sys2Proof/Machine/Ops.lean ====
section
/-!
DEFINITION. The named operations every request is built from: the emitting primitives of 00_scope.md R10
with the oracle's answers (10_state.md R31), the checks before a request (60_exceptions.md R135), raising an
error (R133) and fault entry (R134), the one exception-like entry of the block, as one shared operation.
-/

namespace Sys2Proof.Machine

/-! ### Updates of the state -/

/-- Write S.STATE. -/
def State.setState (s : State) (v : Lifecycle) : State := { s with block := { s.block with state := v } }

/-- Write S.ROT. -/
def State.setRot (s : State) (r : BitVec 2) : State := { s with block := { s.block with rot := r } }

/-- The shadow of a line (10_state.md R25). -/
def Block.shadow (b : Block) : LineName → Shadow
  | .dc => b.lineDC
  | .rst => b.lineRST
  | .cs => b.lineCS

/-- The block's record with the shadow of a line set. -/
def Block.withShadow (b : Block) (l : LineName) (v : Shadow) : Block :=
  match l with
  | .dc => { b with lineDC := v }
  | .rst => { b with lineRST := v }
  | .cs => { b with lineCS := v }

/-- Write a line shadow. -/
def State.setShadow (s : State) (l : LineName) (v : Shadow) : State :=
  { s with block := s.block.withShadow l v }

/-- Write the panel observation state. -/
def State.setPanel (s : State) (p : Panel) : State := { s with panel := p }

/-- Append an event to the trace (20_memory.md R42). -/
def State.emit (s : State) (e : Event) : State := { s with trace := s.trace ++ [e] }

/-- The oracle's answer to the next event (10_state.md R31). -/
def State.nextAnswer (s : State) : Answer :=
  match s.answers with
  | a :: _ => a
  | [] => Config.oracle s.asked

/-- The state after that answer is used. -/
def State.useAnswer (s : State) : State := { s with answers := s.answers.tail, asked := s.asked + 1 }

/-! ### Runs -/

/-- How a request's pseudocode ends: at its end, or with a raised error (00_scope.md R10). -/
inductive Run where
  | done (s : State)
  | raised (e : ErrCode) (s : State)
deriving DecidableEq, Repr

/-- The state a run ends in. -/
def Run.state : Run → State
  | .done s => s
  | .raised _ s => s

/-- Go on with the next piece of pseudocode, unless an error was raised (60_exceptions.md R133). -/
def Run.andThen (r : Run) (f : State → Run) : Run :=
  match r with
  | .done s => f s
  | .raised e s => .raised e s

/-! ### Emitting primitives -/

/-- The state after a `SetLine` that succeeds: the shadow is the level driven (10_state.md R25). -/
def lineDriven (l : LineName) (lv : Level) (s : State) : State :=
  ((s.useAnswer.setShadow l (.known lv)).emit (.setLine l lv true)).setPanel s.panel.settle

/-- The state after a `SetLine` that fails: the line's level is unknown (10_state.md R25) and the panel is
indeterminate (20_memory.md R65). -/
def lineFailed (l : LineName) (lv : Level) (s : State) : State :=
  ((s.useAnswer.setShadow l .unknown).emit (.setLine l lv false)).setPanel Panel.indeterminate

/-- `SetLine(l, lv)` (00_scope.md R10). -/
def setLine (l : LineName) (lv : Level) (s : State) : Run :=
  match s.nextAnswer with
  | .ok => .done (lineDriven l lv s)
  | .fail _ => .raised .lineControl (lineFailed l lv s)

/-- The state after a `Write` that succeeds: the panel reads all of `bs` (20_memory.md R43, R56). -/
def bytesSent (bs : List Byte) (s : State) : State :=
  (s.useAnswer.emit (.write bs none)).setPanel
    (s.panel.seesWrite s.params s.block.lineCS s.block.lineDC bs)

/-- The state after a `Write` of which `k` bytes reached the bus: the panel is indeterminate (20_memory.md
R65). No more bytes than there are can have been sent (10_state.md R31). -/
def bytesCut (bs : List Byte) (k : Nat) (s : State) : State :=
  (s.useAnswer.emit (.write bs (some (min k bs.length)))).setPanel Panel.indeterminate

/-- `Write(bs)` (00_scope.md R10). -/
def write (bs : List Byte) (s : State) : Run :=
  match s.nextAnswer with
  | .ok => .done (bytesSent bs s)
  | .fail k => .raised .transport (bytesCut bs k s)

/-- `Delay(ms)` (00_scope.md R10): it cannot fail, and how long it holds is not observable (10_state.md
R31), so no answer is asked for. -/
def delay (ms : Nat) (s : State) : State := (s.emit (.delay ms)).setPanel s.panel.settle

/-- Did the oracle answer OK? -/
def Answer.isOk (a : Answer) : Bool := a == .ok

/-- `Release(l)` (00_scope.md R10): successful or not, the line's level is unknown after it (10_state.md
R25) and the panel is indeterminate (20_memory.md R65). -/
def release (l : LineName) (s : State) : State :=
  ((s.useAnswer.setShadow l .unknown).emit (.release l (Answer.isOk s.nextAnswer))).setPanel
    Panel.indeterminate

/-! ### The Framer's transaction (40_framer.md R88, R89) -/

/-- One CS deassert attempt after a failure; its own failure is recorded and replaces nothing. -/
def deassertAttempt (s : State) : State := (setLine .cs .high s).state

/-- Go on inside a transaction while CS may be asserted: after an error, one CS deassert attempt. -/
def Run.orDeassert (r : Run) : Run :=
  match r with
  | .done s => .done s
  | .raised e s => .raised e (deassertAttempt s)

/-- `Frame(dc, bs)`: one complete bus transaction. -/
def frame (dc : Level) (bs : List Byte) (s : State) : Run :=
  (setLine .dc dc s).andThen fun s1 =>
    ((setLine .cs .low s1).andThen (write bs)).orDeassert.andThen (setLine .cs .high)

/-- Data transactions one after the other. -/
def dataFrames : List (List Byte) → State → Run
  | [], s => .done s
  | bs :: rest, s => (frame .high bs s).andThen (dataFrames rest)

/-! ### Ending a request -/

/-- Fault entry (60_exceptions.md R134), on a raised error of any request but CLOSE: S.STATE becomes
`Faulted` and the error is recorded; nothing else changes, and nothing is saved. -/
def faultEntry (e : ErrCode) (s : State) : State := (s.setState .faulted).setErr e

/-- The end of a request's pseudocode: S.LAST_ERR is written once (10_state.md R21, R32). -/
def finish : Run → State
  | .done s => s.setErr .none
  | .raised e s => faultEntry e s

/-- The panel at the end of a request that ran from `s` to `t`: when the request emitted events and did not
start in `Ready`, the contents are unknown (20_memory.md R56). DEDUCED (log 15), safe. -/
def endRequest (s t : State) : State :=
  if s.block.state = .ready ∨ t.trace.length = s.trace.length then t
  else t.setPanel t.panel.contentsUnknown

/-- A request with its checks in the order of 60_exceptions.md R135: state permission, then bounds, then
execution. A check that fails changes S.LAST_ERR and nothing else (R136). -/
def request (permitted : Lifecycle → Bool) (inBounds : State → Bool) (body : State → Run)
    (s : State) : State :=
  if permitted s.block.state then
    if inBounds s then endRequest s (finish (body s)) else s.setErr .bounds
  else s.setErr .notPermitted

/-! ### State permission (60_exceptions.md R128)

No request starts in `Configuring` (10_state.md R29), so the table has no column for it; there every request
but CLOSE is not permitted. DESIGN CHOICE (log 6), safe. -/

/-- SEND_CMD, SEND_DATA. -/
def framerPermitted : Lifecycle → Bool
  | .uninitialized => true
  | .resetting => true
  | .ready => true
  | _ => false

/-- RESET. -/
def resetPermitted : Lifecycle → Bool
  | .uninitialized => true
  | .resetting => true
  | .ready => true
  | .faulted => true
  | _ => false

/-- INITIALIZE. -/
def initializePermitted : Lifecycle → Bool
  | .resetting => true
  | _ => false

/-- SET_ROTATION, SET_ADDRESS_WINDOW, FILL_REGION, FILL_SCREEN, SET_PIXEL. -/
def readyOnly : Lifecycle → Bool
  | .ready => true
  | _ => false

/-- A request with no bounds check. -/
def noBounds (_ : State) : Bool := true

end Sys2Proof.Machine
end

