-- ==== Sys2Proof/Machine/Controller.lean ====
section
/-!
DEFINITION. The Controller State Machine's requests RESET, INITIALIZE, SET_ROTATION, SET_ADDRESS_WINDOW and
CLOSE (41_controller.md R93 to R112).
-/

namespace Sys2Proof.Machine

/-! ### RESET -/

/-- The reset pulse: RST high, low, high, each with its minimum hold (41_controller.md R93, R94). -/
def resetPulse (s : State) : Run :=
  (setLine .rst .high s).andThen fun s1 =>
    (setLine .rst .low (delay tRstHigh1 s1)).andThen fun s2 =>
      (setLine .rst .high (delay tRstLow s2)).andThen fun s3 => .done (delay tRstHigh2 s3)

/-- RESET's pseudocode (41_controller.md R93); a pulse that completes resets the panel (20_memory.md R55). -/
def resetBody (s : State) : Run :=
  (resetPulse (s.setState .resetting)).andThen fun t => .done (t.setPanel Panel.afterReset)

/-- RESET (41_controller.md R93). -/
def execReset (s : State) : Host.Outcome State Fault Refusal :=
  .next (request resetPermitted noBounds resetBody s)

/-! ### INITIALIZE -/

/-- `Emit(e)` (41_controller.md R98): a command transaction and, if it has parameters, one data
transaction; or a delay. -/
def emitEntry (e : InitEntry) (s : State) : Run :=
  match e with
  | .cmd c ps => (frame .low [c] s).andThen fun t => if ps = [] then .done t else frame .high ps t
  | .wait ms => .done (delay ms s)

/-- The entries of INIT_TABLE, in order (41_controller.md R96). -/
def emitTable : List InitEntry → State → Run
  | [], s => .done s
  | e :: rest, s => (emitEntry e s).andThen (emitTable rest)

/-- INITIALIZE's pseudocode (41_controller.md R96, R99). -/
def initializeBody (s : State) : Run :=
  (emitTable s.params.initTable (s.setState .configuring)).andThen fun t => .done (t.setState .ready)

/-- INITIALIZE (41_controller.md R96). -/
def execInitialize (s : State) : Host.Outcome State Fault Refusal :=
  .next (request initializePermitted noBounds initializeBody s)

/-! ### SET_ROTATION -/

/-- SET_ROTATION's pseudocode: S.ROT is written only after both transactions succeed (41_controller.md
R100). -/
def setRotationBody (i : BitVec 2) (s : State) : Run :=
  (frame .low [0x36#8] s).andThen fun t =>
    (frame .high [madctlByte i] t).andThen fun u => .done (u.setRot i)

/-- SET_ROTATION (41_controller.md R100). -/
def execSetRotation (r : Word) (s : State) : Host.Outcome State Fault Refusal :=
  .next (request readyOnly noBounds (setRotationBody (rotationIndex r)) s)

/-! ### SET_ADDRESS_WINDOW -/

/-- `WindowSeq(x0, y0, x1, y1)`: five transactions (41_controller.md R105). -/
def windowSeq (x0 y0 x1 y1 : Nat) (s : State) : Run :=
  (frame .low [0x2A#8] s).andThen fun s1 =>
    (frame .high (coordinateBytes x0 x1) s1).andThen fun s2 =>
      (frame .low [0x2B#8] s2).andThen fun s3 =>
        (frame .high (coordinateBytes y0 y1) s3).andThen fun s4 => frame .low [0x2C#8] s4

/-- The bounds check of SET_ADDRESS_WINDOW (41_controller.md R104). -/
def windowInFrame (x0 y0 x1 y1 : Half) (s : State) : Bool :=
  inFrame s.width s.height (s16 x0) (s16 y0) (s16 x1) (s16 y1)

/-- SET_ADDRESS_WINDOW (41_controller.md R103). -/
def execSetAddressWindow (x0 y0 x1 y1 : Half) (s : State) : Host.Outcome State Fault Refusal :=
  .next (request readyOnly (windowInFrame x0 y0 x1 y1)
    (windowSeq (s16 x0).toNat (s16 y0).toNat (s16 x1).toNat (s16 y1).toNat) s)

/-! ### CLOSE -/

/-- The release loop of CLOSE: every release is attempted, and the first failure is the one reported
(41_controller.md R108, R110). -/
def releaseAll : List LineName → ErrCode → State → ErrCode × State
  | [], err, s => (err, s)
  | l :: ls, err, s =>
    releaseAll ls (if err = .none ∧ Answer.isOk s.nextAnswer = false then .lineControl else err) (release l s)

/-- The block after CLOSE: closed, holding no line, with the given result (41_controller.md R108). -/
def closeBlock (err : ErrCode) (s : State) : State :=
  { s with block := { s.block with state := .closed, claimed := false, lastErr := err } }

/-- CLOSE's pseudocode; in `Closed` it is a no-op (41_controller.md R108, R109). -/
def closeRequest (s : State) : State :=
  if s.block.state = .closed then s.setErr .none
  else
    let r := releaseAll [.dc, .rst, .cs] .none s
    endRequest s (closeBlock r.1 r.2)

/-- CLOSE (41_controller.md R108): permitted in every state; it never enters `Faulted`. -/
def execClose (s : State) : Host.Outcome State Fault Refusal := .next (closeRequest s)

end Sys2Proof.Machine
end

