-- ==== Sys2Proof/Machine/Framer.lean ====
section
/-!
DEFINITION. The Framer's requests SEND_CMD and SEND_DATA (40_framer.md R87 to R92).
-/

namespace Sys2Proof.Machine

/-- SEND_CMD (40_framer.md R90): `Frame(LOW, [CMD])`. -/
def execSendCmd (cmd : Byte) (s : State) : Host.Outcome State Fault Refusal :=
  .next (request framerPermitted noBounds (frame .low [cmd]) s)

/-- SEND_DATA (40_framer.md R91): `Frame(HIGH, bs)`, the whole payload as one transport call, an empty one
too. -/
def execSendData (payload : List Byte) (s : State) : Host.Outcome State Fault Refusal :=
  .next (request framerPermitted noBounds (frame .high payload) s)

end Sys2Proof.Machine
end

