-- ==== Sys2Proof/Machine/PanelCommands.lean ====
section
/-!
DEFINITION. The four panel command bytes of the opcode table (30_encoding.md R79), read by the panel: what
each does to PM is 20_memory.md R57 to R59 and R63, under R55 and R66. The block emits these bytes inside its
requests' transactions, and there the panel reads them by the same `Panel.command`; log 9 says why a single
byte on the bus is a step of its own too.
-/

namespace Sys2Proof.Machine

/-- PANEL_CMD column-address-set, 0x2A (20_memory.md R57). -/
def execPanelColumnAddressSet (s : State) : Host.Outcome State Fault Refusal :=
  .next (s.setPanel (s.panel.command s.params 0x2A#8))

/-- PANEL_CMD row-address-set, 0x2B (20_memory.md R58). -/
def execPanelRowAddressSet (s : State) : Host.Outcome State Fault Refusal :=
  .next (s.setPanel (s.panel.command s.params 0x2B#8))

/-- PANEL_CMD memory-write, 0x2C (20_memory.md R59). -/
def execPanelMemoryWrite (s : State) : Host.Outcome State Fault Refusal :=
  .next (s.setPanel (s.panel.command s.params 0x2C#8))

/-- PANEL_CMD memory-access-control, 0x36 (20_memory.md R63). -/
def execPanelMemoryAccessControl (s : State) : Host.Outcome State Fault Refusal :=
  .next (s.setPanel (s.panel.command s.params 0x36#8))

end Sys2Proof.Machine
end

