-- ==== Sys2Proof/Machine/PixelFill.lean ====
section
/-!
DEFINITION. The Pixel Fill Engine's requests FILL_REGION, FILL_SCREEN and SET_PIXEL (42_pixel_fill.md R113
to R126).
-/

namespace Sys2Proof.Machine

/-- `FillSeq` (42_pixel_fill.md R115): the window, then the chunks of its pixels. -/
def fillSeq (r : Rect) (c : Half) (s : State) : Run :=
  (windowSeq r.x r.y (r.x + r.w - 1) (r.y + r.h - 1) s).andThen
    (dataFrames (pixelChunks s.params.chunkPixels (r.w * r.h) c))

/-- FILL_REGION's pseudocode: an empty clip is a no-op (42_pixel_fill.md R117). -/
def fillRegionBody (x y w h : Int) (c : Half) (s : State) : Run :=
  match clip s.width s.height x y w h with
  | none => .done s
  | some r => fillSeq r c s

/-- FILL_REGION (42_pixel_fill.md R117). -/
def execFillRegion (x y w h : Half) (color : Word) (s : State) : Host.Outcome State Fault Refusal :=
  .next (request readyOnly noBounds (fillRegionBody (s16 x) (s16 y) (s16 w) (s16 h) (colour16 color)) s)

/-- FILL_SCREEN's pseudocode: the whole logical frame, of the size it has when the request runs
(42_pixel_fill.md R118). -/
def fillScreenBody (c : Half) (s : State) : Run := fillSeq ⟨0, 0, s.width, s.height⟩ c s

/-- FILL_SCREEN (42_pixel_fill.md R118). -/
def execFillScreen (color : Word) (s : State) : Host.Outcome State Fault Refusal :=
  .next (request readyOnly noBounds (fillScreenBody (colour16 color)) s)

/-- SET_PIXEL's pseudocode: a pixel outside the frame is a no-op (42_pixel_fill.md R119). -/
def setPixelBody (x y : Int) (c : Half) (s : State) : Run :=
  if 0 ≤ x ∧ x < s.width ∧ 0 ≤ y ∧ y < s.height then
    (windowSeq x.toNat y.toNat x.toNat y.toNat s).andThen (frame .high (bigEndian c))
  else .done s

/-- SET_PIXEL (42_pixel_fill.md R119). -/
def execSetPixel (x y : Half) (color : Word) (s : State) : Host.Outcome State Fault Refusal :=
  .next (request readyOnly noBounds (setPixelBody (s16 x) (s16 y) (colour16 color)) s)

end Sys2Proof.Machine
end

