-- ==== Sys2Proof/Machine/Reserved.lean ====
section
/-!
DEFINITION. A request with a reserved opcode or reserved bits (30_encoding.md R72, R73; 60_exceptions.md
R129).
-/

namespace Sys2Proof.Machine

/-- RESERVED: `ILLEGAL` in every state, no event; only S.LAST_ERR changes, and what the request consumed is
discarded (30_encoding.md R72, R73). -/
def execReserved (_header : Word) (_operands : List Word) (_payload : List Byte) (s : State) :
    Host.Outcome State Fault Refusal :=
  .next (s.setErr .illegal)

end Sys2Proof.Machine
end

