-- ==== Sys2Proof/Machine/Dispatch.lean ====
section
/-!
DEFINITION. One instruction's effect: one arm per constructor of Instr.
-/

namespace Sys2Proof.Machine

def exec (i : Instr) (s : State) : Host.Outcome State Fault Refusal :=
  match i with
  | .sendCmd cmd => Sys2Proof.Machine.execSendCmd cmd s
  | .sendData payload => Sys2Proof.Machine.execSendData payload s
  | .reset => Sys2Proof.Machine.execReset s
  | .initializePanel => Sys2Proof.Machine.execInitialize s
  | .setRotation r => Sys2Proof.Machine.execSetRotation r s
  | .setAddressWindow x0 y0 x1 y1 => Sys2Proof.Machine.execSetAddressWindow x0 y0 x1 y1 s
  | .close => Sys2Proof.Machine.execClose s
  | .fillRegion x y w h color => Sys2Proof.Machine.execFillRegion x y w h color s
  | .fillScreen color => Sys2Proof.Machine.execFillScreen color s
  | .setPixel x y color => Sys2Proof.Machine.execSetPixel x y color s
  | .reserved header operands payload => Sys2Proof.Machine.execReserved header operands payload s
  | .panelColumnAddressSet => Sys2Proof.Machine.execPanelColumnAddressSet s
  | .panelRowAddressSet => Sys2Proof.Machine.execPanelRowAddressSet s
  | .panelMemoryWrite => Sys2Proof.Machine.execPanelMemoryWrite s
  | .panelMemoryAccessControl => Sys2Proof.Machine.execPanelMemoryAccessControl s

end Sys2Proof.Machine
end

