-- ==== Sys2Proof/Machine/Fetch.lean ====
section
/-!
DEFINITION. What a step does next. The block fetches nothing (10_state.md R16): the host supplies requests,
and one starts when all its words and bytes have been written (20_memory.md R39).
-/

namespace Sys2Proof.Machine

/-- What is next. -/
inductive Fetched where
  /-- An instruction, and the state it runs in. -/
  | instr (i : Instr) (s : State)
  /-- A bus byte that is no row of the opcode table, and the state it is read in. -/
  | busByte (b : BusByte) (s : State)
  /-- A host access, and the state it is made in. -/
  | access (a : HostAccess) (s : State)
  /-- Nothing: the block is idle between requests (60_exceptions.md R145). -/
  | idle

/-- The state a request runs in: it has taken its words and bytes, and whatever else was written with them is
discarded, since nothing but S persists from one request to the next and no buffer outlives a request
(10_state.md R17, R27). -/
def clearSupply (s : State) : State := { s with req := [], payload := [] }

/-- A byte on the bus comes first (20_memory.md R50), then a whole request that is waiting, then the host's
next access (R39). DESIGN CHOICE (logs 1 and 9), safe. -/
def fetch (s : State) : Fetched :=
  match s.bus with
  | b :: rest =>
    match b.dc, decodeCommandByte b.byte with
    | .low, some i => .instr i { s with bus := rest }
    | _, _ => .busByte b { s with bus := rest }
  | [] =>
    match decodeRequest s.req s.payload with
    | .complete i _ _ => .instr i (clearSupply s)
    | .incomplete =>
      match s.accesses with
      | a :: rest => .access a { s with accesses := rest }
      | [] => .idle

/-- The panel reads a bus byte that is no row of the opcode table: a data byte, or a command byte of
20_memory.md R64. -/
def readBusByte (b : BusByte) (s : State) : State :=
  { s with panel := s.panel.readByte s.params b.dc b.byte }

/-- Put the instruction of an opcode-table word where `fetch` takes the next one: a panel command on the
bus, a request at the front of the host's streams with the bus idle. -/
def placeTableWord (s : State) (nbits w : Nat) : State :=
  match tableCommand nbits w with
  | some _ => { s with bus := ⟨.low, BitVec.ofNat 8 (w % 2 ^ nbits)⟩ :: s.bus }
  | none =>
    { s with
      bus := []
      req := tableHeader nbits w :: (tableOperands nbits w ++ s.req)
      payload := tablePayload nbits w ++ s.payload }

end Sys2Proof.Machine
end

