-- ==== Sys2Proof/Machine/HostBus.lean ====
section
/-!
DEFINITION. The host register interface (20_memory.md R37 to R39): four 32-bit registers at byte offsets
0x0, 0x4, 0x8 and 0xC.
-/

namespace Sys2Proof.Machine

/-- What a host read returns: STATUS, GEOMETRY, and 0 for the write-only registers (20_memory.md R38, R39).
None at an offset that is no multiple of 4. -/
def hostReadValue (offset : BitVec 4) (s : State) : Option Word :=
  if offset = 0x0#4 then some (statusWord s.block)
  else if offset = 0x4#4 then some (geometryWord s)
  else if offset = 0x8#4 then some 0#32
  else if offset = 0xC#4 then some 0#32
  else none

/-- What a host write does: a write to STATUS or GEOMETRY is ignored; REQ takes the next word of a request;
PAYLOAD takes the next payload byte, bits 7:0 (20_memory.md R38, R39). None at an offset that is no multiple
of 4. Words and bytes of one request wait in the order written, a byte written before its header too; what
the request does not take is discarded when it runs (`clearSupply`). DESIGN CHOICE (log 7), unsafe. -/
def hostWriteState (offset : BitVec 4) (w : Word) (s : State) : Option State :=
  if offset = 0x0#4 then some s
  else if offset = 0x4#4 then some s
  else if offset = 0x8#4 then some { s with req := s.req ++ [w] }
  else if offset = 0xC#4 then some { s with payload := s.payload ++ [w.extractLsb' 0 8] }
  else none

/-- One access of the host. A read hands its word to the host and changes nothing in the block. -/
def hostAccess (a : HostAccess) (s : State) : Host.Outcome State Fault Refusal :=
  match a with
  | .read offset =>
    match hostReadValue offset s with
    | some w => .next { s with readData := s.readData ++ [w] }
    | none => .fault .unalignedHostAccess
  | .write offset w =>
    match hostWriteState offset w s with
    | some t => .next t
    | none => .fault .unalignedHostAccess

end Sys2Proof.Machine
end

