-- ==== Sys2Proof/Machine/Step.lean ====
section
/-!
DEFINITION. One step: the next instruction run to completion (10_state.md R30), or one byte read by the
panel, or one host access; with nothing to do the machine idles.
-/

namespace Sys2Proof.Machine

/-- One step of the machine. -/
def step (s : State) : Host.Outcome State Fault Refusal :=
  match fetch s with
  | .instr i t => exec i t
  | .busByte b t => .next (readBusByte b t)
  | .access a t => hostAccess a t
  | .idle => .next s

/-- The state with that instruction placed where the next step takes it from (log 10). -/
def State.withFetchWord (s : State) (nbits w : Nat) : State := placeTableWord s nbits w

end Sys2Proof.Machine
end

