-- ==== Sys2Proof/Safety.lean ====
section
/-!
DEFINITION. The terms statements about runs are written in: the trace shorthands of 30_encoding.md R86 and
95_test_vectors.md, the premise that the oracle answers OK, what a request carries over unchanged, and the
invariant of the machine.
-/

namespace Sys2Proof.Machine

/-! ### Trace shorthands -/

/-- The four events of a successful transaction (40_framer.md R88). -/
def frameEvents (dc : Level) (bs : List Byte) : List Event :=
  [.setLine .dc dc true, .setLine .cs .low true, .write bs none, .setLine .cs .high true]

/-- `C(b)` (30_encoding.md R86). -/
def cmdEvents (b : Byte) : List Event :=
  [.setLine .dc .low true, .setLine .cs .low true, .write [b] none, .setLine .cs .high true]

/-- `D(bs)` (30_encoding.md R86). -/
def dataEvents (bs : List Byte) : List Event :=
  [.setLine .dc .high true, .setLine .cs .low true, .write bs none, .setLine .cs .high true]

/-- `PULSE` (30_encoding.md R86). -/
def pulseEvents : List Event :=
  [.setLine .rst .high true, .delay 50, .setLine .rst .low true, .delay 100, .setLine .rst .high true,
    .delay 50]

/-- `WIN(x0, y0, x1, y1)`, the 20 events of a successful window sequence (41_controller.md R105). -/
def windowEvents (x0 y0 x1 y1 : Nat) : List Event :=
  cmdEvents 0x2A#8 ++ dataEvents (coordinateBytes x0 x1) ++ cmdEvents 0x2B#8 ++
    dataEvents (coordinateBytes y0 y1) ++ cmdEvents 0x2C#8

/-- The events of one INIT_TABLE entry (41_controller.md R98). -/
def entryEvents : InitEntry → List Event
  | .cmd c [] => cmdEvents c
  | .cmd c (p :: ps) => cmdEvents c ++ dataEvents (p :: ps)
  | .wait ms => [.delay ms]

/-- The events of a fill of a rectangle (42_pixel_fill.md R115). -/
def fillEvents (chunkPixels : Nat) (r : Rect) (c : Half) : List Event :=
  windowEvents r.x r.y (r.x + r.w - 1) (r.y + r.h - 1) ++
    (pixelChunks chunkPixels (r.w * r.h) c).flatMap dataEvents

/-- What an event asks of the oracle: one answer, but for a delay (10_state.md R31). -/
def Event.answers : Event → Nat
  | .delay _ => 0
  | _ => 1

/-- The answers a list of events asks for. -/
def answersOf (evs : List Event) : Nat := (evs.map Event.answers).sum

/-! ### Premises and frames -/

/-- The oracle's next `n` answers are OK. -/
abbrev State.answersOk (s : State) (n : Nat) : Prop := s.answers.take n = List.replicate n .ok

/-- What no request changes, and that the oracle was asked for `n` answers. -/
def Carried (n : Nat) (s t : State) : Prop :=
  t.params = s.params ∧ t.answers = s.answers.drop n ∧ t.asked = s.asked + n ∧ t.bus = s.bus ∧
    t.accesses = s.accesses ∧ t.req = s.req ∧ t.payload = s.payload ∧ t.readData = s.readData

/-- The panel after a request that sent transactions and completed: what it read when the request started
in `Ready`, else contents unknown (20_memory.md R56). -/
def panelAfter (s : State) (p : Panel) : Panel :=
  if s.block.state = .ready then p else Panel.blank s.panel.live

/-- The panel after it has read a window sequence (41_controller.md R105, R106). -/
def Panel.readWindow (cfg : Params) (x0 y0 x1 y1 : Nat) (p : Panel) : Panel :=
  ((((p.readBytes cfg .low [0x2A#8]).readBytes cfg .high (coordinateBytes x0 x1)).readBytes cfg .low
    [0x2B#8]).readBytes cfg .high (coordinateBytes y0 y1)).readBytes cfg .low [0x2C#8]

/-- The panel after it has read data transactions. -/
def Panel.readChunks (cfg : Params) (chunks : List (List Byte)) (p : Panel) : Panel :=
  chunks.foldl (fun q bs => q.readBytes cfg .high bs) p

/-- What the pixel at (x, y) reads as after a command byte has dropped a waiting half pixel (20_memory.md
R66): the pixel at the write position is unknown if it lies in the frame; where that position or the frame is
not known, every pixel is (log 11). -/
def Panel.pixelAfterDrop (cfg : Params) (p : Panel) (x y : Nat) : Option Half :=
  if p.cmd = some 0x2C#8 ∧ p.half ≠ none then
    match p.ranges, p.rotation with
    | some w, some i =>
      if x = w.column p.wptr ∧ y = w.row p.wptr ∧ x < frameW cfg i ∧ y < frameH cfg i then none
      else p.fb.read x y
    | _, _ => none
  else p.fb.read x y

/-! ### Tables of the spec, for statements over all requests -/

/-- The state permission table (60_exceptions.md R128), row by row; a reserved request has no row. -/
def permissionTable : Instr → List Lifecycle
  | .sendCmd _ => [.uninitialized, .resetting, .ready]
  | .sendData _ => [.uninitialized, .resetting, .ready]
  | .reset => [.uninitialized, .resetting, .ready, .faulted]
  | .initializePanel => [.resetting]
  | .setRotation _ => [.ready]
  | .setAddressWindow _ _ _ _ => [.ready]
  | .close => [.uninitialized, .resetting, .ready, .faulted, .closed]
  | .fillRegion _ _ _ _ _ => [.ready]
  | .fillScreen _ => [.ready]
  | .setPixel _ _ _ => [.ready]
  | .reserved _ _ _ => []
  | .panelColumnAddressSet => []
  | .panelRowAddressSet => []
  | .panelMemoryWrite => []
  | .panelMemoryAccessControl => []

/-- Is it the reserved row? -/
def isReservedRow : Instr → Bool
  | .reserved _ _ _ => true
  | _ => false

/-- The rectangle and the colour a fill request paints in the state it runs in: none for an empty fill
(42_pixel_fill.md R117 to R119) and for any other instruction. -/
def fillTarget (s : State) : Instr → Option (Rect × Half)
  | .fillRegion x y w h color =>
    (clip s.width s.height (s16 x) (s16 y) (s16 w) (s16 h)).map fun r => (r, colour16 color)
  | .fillScreen color => some (⟨0, 0, s.width, s.height⟩, colour16 color)
  | .setPixel x y color =>
    if 0 ≤ s16 x ∧ s16 x < s.width ∧ 0 ≤ s16 y ∧ s16 y < s.height then
      some (⟨(s16 x).toNat, (s16 y).toNat, 1, 1⟩, colour16 color)
    else none
  | _ => none

/-- `ceil(a / b)` (00_scope.md R9). -/
def ceilDiv (a b : Nat) : Nat := (a + b - 1) / b

/-- The number of events a completed request emits (70_reset_and_hazards.md R161); a panel command byte
emits none. -/
def eventBound (s : State) : Instr → Nat
  | .sendCmd _ => 4
  | .sendData _ => 4
  | .reset => 6
  | .initializePanel => (s.params.initTable.map fun e => (entryEvents e).length).sum
  | .setRotation _ => 8
  | .setAddressWindow _ _ _ _ => 20
  | .close => 3
  | i =>
    match fillTarget s i with
    | some (r, _) => 20 + 4 * ceilDiv (r.w * r.h) s.params.chunkPixels
    | none => 0

/-- The events a request emits when its checks let it run and no event fails, in order (30_encoding.md R86,
40_framer.md R88, 41_controller.md R93 to R108, 42_pixel_fill.md R115, R119); a panel command byte emits none. -/
def completedEvents (s : State) : Instr → List Event
  | .sendCmd cmd => cmdEvents cmd
  | .sendData bs => dataEvents bs
  | .reset => pulseEvents
  | .initializePanel => s.params.initTable.flatMap entryEvents
  | .setRotation r => cmdEvents 0x36#8 ++ dataEvents [madctlByte (rotationIndex r)]
  | .setAddressWindow x0 y0 x1 y1 => windowEvents (s16 x0).toNat (s16 y0).toNat (s16 x1).toNat (s16 y1).toNat
  | .close => [.release .dc true, .release .rst true, .release .cs true]
  | .fillRegion x y w h color =>
    match clip s.width s.height (s16 x) (s16 y) (s16 w) (s16 h) with
    | some r => fillEvents s.params.chunkPixels r (colour16 color)
    | none => []
  | .fillScreen color => fillEvents s.params.chunkPixels ⟨0, 0, s.width, s.height⟩ (colour16 color)
  | .setPixel x y color =>
    if 0 ≤ s16 x ∧ s16 x < s.width ∧ 0 ≤ s16 y ∧ s16 y < s.height then
      windowEvents (s16 x).toNat (s16 y).toNat (s16 x).toNat (s16 y).toNat ++
        dataEvents (bigEndian (colour16 color))
    else []
  | .reserved _ _ _ => []
  | .panelColumnAddressSet => []
  | .panelRowAddressSet => []
  | .panelMemoryWrite => []
  | .panelMemoryAccessControl => []

/-- The second event is the first with a failure recorded (40_framer.md R89, 20_memory.md R42). -/
inductive FailsAs : Event → Event → Prop where
  | setLine (l : LineName) (lv : Level) : FailsAs (.setLine l lv true) (.setLine l lv false)
  | write (bs : List Byte) (k : Nat) (h : k ≤ bs.length) : FailsAs (.write bs none) (.write bs (some k))
  | release (l : LineName) : FailsAs (.release l true) (.release l false)

/-- The error a failing event raises (60_exceptions.md R131, R132). -/
def raisedBy : Event → ErrCode
  | .write _ _ => .transport
  | _ => .lineControl

/-- What follows a failing event: the one CS deassert attempt, with its outcome, after a failed CS assert or
a failed write, and nothing after any other (40_framer.md R89, 60_exceptions.md R133). -/
def deassertAfter (e : Event) (ok : Bool) : List Event :=
  match e with
  | .setLine .cs .low _ => [.setLine .cs .high ok]
  | .write _ _ => [.setLine .cs .high ok]
  | _ => []

/-- Where a trace stands in a transaction: CS not asserted, asserted with no write yet, or after the write. -/
inductive CsPhase where
  | idle
  | asserted
  | written
deriving DecidableEq, Repr

/-- The framing discipline of 40_framer.md R92 on a list of events: a `Write` happens only between a CS
assert and the next CS deassert, once, with no other line event between them; and the events end with CS not
asserted (a deassert attempt that fails ends the transaction too). -/
def csDiscipline : CsPhase → List Event → Bool
  | .idle, [] => true
  | .idle, .setLine .cs .low _ :: evs => csDiscipline .asserted evs
  | .idle, .setLine .cs .high _ :: _ => false
  | .idle, .write _ _ :: _ => false
  | .idle, _ :: evs => csDiscipline .idle evs
  | .asserted, .write _ _ :: evs => csDiscipline .written evs
  | .asserted, .setLine .cs .high _ :: evs => csDiscipline .idle evs
  | .asserted, _ => false
  | .written, .setLine .cs .high _ :: evs => csDiscipline .idle evs
  | .written, _ => false

/-! ### The invariant -/

/-- The block's part: no request boundary in `Configuring` (10_state.md R29), the lines are held until
CLOSE (R25, R36), CS is never left asserted (40_framer.md R89, R92), RST is high once a pulse has completed,
CS and DC have known levels in `Ready`, and nothing is known of a released line. -/
abbrev Block.Inv (b : Block) : Prop :=
  b.state ≠ .configuring ∧ (b.claimed = true ↔ b.state ≠ .closed) ∧ b.lineCS ≠ .known .low ∧
    (b.state = .resetting ∨ b.state = .ready → b.lineRST = .known .high) ∧
    (b.state = .ready → b.lineCS = .known .high ∧ b.lineDC ≠ .unknown) ∧
    (b.state = .closed → b.lineDC = .unknown ∧ b.lineRST = .unknown ∧ b.lineCS = .unknown)

/-- Does a pixel lie in the logical frame of the panel's memory-access-control byte? -/
def Panel.frameHolds (cfg : Params) (p : Panel) (px : Pixel) : Bool :=
  match p.rotation with
  | some i => decide (px.x < frameW cfg i ∧ px.y < frameH cfg i)
  | none => false

/-- Every known pixel lies in the logical frame of the panel's memory-access-control byte (20_memory.md
R54); where that byte is unknown or not in MADCTL_TABLE no pixel is known. -/
abbrev Panel.pixelsInFrame (cfg : Params) (p : Panel) : Prop := ∀ px ∈ p.fb, p.frameHolds cfg px = true

/-- The panel's part: the framebuffer keeps its canonical form and its frame, a half pixel waits only in a
pixel stream, the frame is unknown once 0x36 has had its byte (20_memory.md R63), and a panel that is not
live is indeterminate (R55). -/
abbrev Panel.Inv (cfg : Params) (p : Panel) : Prop :=
  p.fb.wf ∧ p.pixelsInFrame cfg ∧ (p.half ≠ none → p.cmd = some 0x2C#8) ∧
    (p.cmd = some 0x36#8 → p.args ≠ [] → p.fb = []) ∧ (p.live = false → p = Panel.indeterminate)

/-- The machine's invariant at every step: the parameters meet 00_scope.md R7, the bus is idle, the block's
and the panel's parts hold, the panel is live exactly between a completed pulse and a failure or CLOSE, and
nothing is known of it before `Ready` (20_memory.md R55, R56, R65). -/
abbrev State.Inv (s : State) : Prop :=
  s.params.Valid ∧ s.bus = [] ∧ s.block.Inv ∧ s.panel.Inv s.params ∧
    (s.panel.live = true ↔ s.block.state = .resetting ∨ s.block.state = .ready) ∧
    (s.block.state = .resetting → s.panel = Panel.afterReset)

end Sys2Proof.Machine
end

