-- ==== Sys2Proof/WellFormed.lean ====
section
/-!
DEFINITION. Which instructions an encoding can carry. Every operand field of `Instr` has the width of its
field, so only the lengths of lists and the reserved row need a check.
-/

namespace Sys2Proof

/-- The causes of ILLEGAL (60_exceptions.md R129): a reserved opcode, a reserved header bit, or, for
SEND_CMD, a reserved bit of `CMDW`. -/
def illegalWords (header : Word) (operands : List Word) : Bool :=
  !knownOpcodes.contains (opcode header) || reservedBits header != 0#24 ||
    (opcode header == 0x01#8 && reservedBits (operands.getD 0 0#32) != 0#24)

/-- LEN is a 32-bit count (30_encoding.md R69); a reserved request is one that is ILLEGAL, with the operand
words and payload bytes that its header makes it consume (R71, R73). -/
def Instr.wf : Instr → Bool
  | .sendData payload => decide (payload.length < 2 ^ 32)
  | .reserved header operands payload =>
    illegalWords header operands && operands.length == operandCount (opcode header) &&
      payload.length == payloadLength header operands
  | _ => true

end Sys2Proof
end

