-- ==== Sys2Proof/Certificates/Slice0/Obligations.lean ====
section
/-!
DEFINITION. The statements for the provers. Each docstring says which rule or section of spec/ it formalises.
-/

open Sys2Proof Sys2Proof.Machine

/-! ### Encoding -/

/-- 30_encoding.md sections 1 and 2: a well-formed request decodes from its own words and payload, whatever
follows them, and a panel command from its own byte. -/
def Obligations.DecodeOfEncodeIsTheInstruction : Prop :=
  (∀ (i : Instr) (ws : List Word) (bs : List Byte), i.wf = true → i.isRequest = true →
      decodeRequest (encode i ++ ws) (encodePayload i ++ bs) = .complete i ws bs) ∧
    ∀ i : Instr, i.isRequest = false →
      ∃ b, encodeCommandByte i = some b ∧ decodeCommandByte b = some i

/-- 30_encoding.md sections 1 and 2: what decodes to a request is that request's encoding, bit for bit, and
the request is well formed; a byte that decodes to a panel command is its byte. -/
def Obligations.EncodeOfDecodeIsTheWords : Prop :=
  (∀ (ws : List Word) (bs : List Byte) (i : Instr) (ws' : List Word) (bs' : List Byte),
      decodeRequest ws bs = .complete i ws' bs' →
      i.wf = true ∧ i.isRequest = true ∧ encode i ++ ws' = ws ∧ encodePayload i ++ bs' = bs) ∧
    ∀ (b : Byte) (i : Instr), decodeCommandByte b = some i → encodeCommandByte i = some b

/-- The encoding examples of 30_encoding.md (its table of examples), and the command bytes of its table of
panel commands, decode as the tables say. -/
def Obligations.EncodingExamplesDecode : Prop :=
  decodeRequest [0x00000001, 0x00000029] [] = .complete (.sendCmd 0x29) [] [] ∧
    decodeRequest [0x00000002, 0x00000001] [0x55] = .complete (.sendData [0x55]) [] [] ∧
    decodeRequest [0x00000010] [] = .complete .reset [] [] ∧
    decodeRequest [0x00000011] [] = .complete .initializePanel [] [] ∧
    decodeRequest [0x00000012, 0x00000005] [] = .complete (.setRotation 5) [] [] ∧
    decodeRequest [0x00000013, 0x0000012C, 0x01DF013F] [] =
      .complete (.setAddressWindow 300 0 319 479) [] [] ∧
    decodeRequest [0x0000001F] [] = .complete .close [] [] ∧
    decodeRequest [0x00000020, 0x0014000A, 0x00030005, 0x0000F800] [] =
      .complete (.fillRegion 10 20 5 3 0xF800) [] [] ∧
    decodeRequest [0x00000020, 0x0000FFFB, 0x0001000A, 0x0000001F] [] =
      .complete (.fillRegion (BitVec.ofInt 16 (-5)) 0 10 1 0x1F) [] [] ∧
    decodeRequest [0x00000021, 0x12345678] [] = .complete (.fillScreen 0x12345678) [] [] ∧
    colour16 0x12345678 = 0x5678 ∧
    decodeRequest [0x00000022, 0x00000000, 0x0000001F] [] = .complete (.setPixel 0 0 0x1F) [] [] ∧
    decodeRequest [0x00000100] [] = .complete (.reserved 0x100 [] []) [] [] ∧
    decodeCommandByte 0x2A#8 = some .panelColumnAddressSet ∧
    decodeCommandByte 0x2B#8 = some .panelRowAddressSet ∧
    decodeCommandByte 0x2C#8 = some .panelMemoryWrite ∧
    decodeCommandByte 0x36#8 = some .panelMemoryAccessControl

/-- 30_encoding.md section 2, reserved opcodes: one word, ILLEGAL in every state, and nothing but LAST_ERR
changes. -/
def Obligations.ReservedOpcodeIsIllegal : Prop :=
  ∀ (h : Word) (ws : List Word) (bs : List Byte) (s : State),
    opcode h ∉ [0x01#8, 0x02#8, 0x10#8, 0x11#8, 0x12#8, 0x13#8, 0x1F#8, 0x20#8, 0x21#8, 0x22#8] →
    decodeRequest (h :: ws) bs = .complete (.reserved h [] []) ws bs ∧
      exec (.reserved h [] []) s = .next { s with block := { s.block with lastErr := .illegal } }

/-- 30_encoding.md section 2, reserved bits: the request consumes its full length, its payload is discarded,
it is ILLEGAL and nothing but LAST_ERR changes. -/
def Obligations.ReservedBitsAreIllegal : Prop :=
  ∀ (h : Word) (operands : List Word) (payload : List Byte) (ws : List Word) (bs : List Byte) (s : State),
    operands.length = operandCount (opcode h) → payload.length = payloadLength h operands →
    (reservedBits h ≠ 0#24 ∨ (opcode h = 0x01#8 ∧ reservedBits (operands.getD 0 0#32) ≠ 0#24)) →
    decodeRequest (h :: (operands ++ ws)) (payload ++ bs) =
        .complete (.reserved h operands payload) ws bs ∧
      exec (.reserved h operands payload) s =
        .next { s with block := { s.block with lastErr := .illegal } }

/-- 30_encoding.md section 2, ignored bits: COLW[31:16] and ROTW[31:2] have no effect on what a request
does, and neither makes it ILLEGAL. -/
def Obligations.IgnoredBitsHaveNoEffect : Prop :=
  (∀ (r r' : Word) (s : State), r.extractLsb' 0 2 = r'.extractLsb' 0 2 →
      exec (.setRotation r) s = exec (.setRotation r') s) ∧
    (∀ (c c' : Word) (x y w h : Half) (s : State), c.extractLsb' 0 16 = c'.extractLsb' 0 16 →
      exec (.fillRegion x y w h c) s = exec (.fillRegion x y w h c') s ∧
        exec (.fillScreen c) s = exec (.fillScreen c') s ∧
        exec (.setPixel x y c) s = exec (.setPixel x y c') s) ∧
    (∀ (v xy wh : Word),
      decodeRequest [0x12, v] [] = .complete (.setRotation v) [] [] ∧
        decodeRequest [0x21, v] [] = .complete (.fillScreen v) [] [] ∧
        decodeRequest [0x22, xy, v] [] = .complete (.setPixel (lowHalf xy) (highHalf xy) v) [] [] ∧
        decodeRequest [0x20, xy, wh, v] [] =
          .complete (.fillRegion (lowHalf xy) (highHalf xy) (lowHalf wh) (highHalf wh) v) [] []) ∧
    ∀ (v : Word) (x y w h : Half) (s : State) (i : Instr),
      i ∈ [Instr.setRotation v, .fillRegion x y w h v, .fillScreen v, .setPixel x y v] →
      ∃ t, exec i s = .next t ∧ t.block.lastErr ≠ .illegal

/-! ### The step -/

/-- A step runs the decoded instruction: with the bus idle, the request whose words and bytes are all there
(20_memory.md section 1), with nothing left of what the host supplied (10_state.md sections 2 and 3); a panel
command byte on the bus, with the bus moved past it. The order of the two is the model's choice (logs 1 and
9). -/
def Obligations.StepRunsTheDecodedInstruction : Prop :=
  (∀ (s : State) (i : Instr) (ws : List Word) (bs : List Byte), s.bus = [] →
      decodeRequest s.req s.payload = .complete i ws bs →
      step s = exec i { s with req := [], payload := [] }) ∧
    ∀ (s : State) (b : Byte) (rest : List BusByte) (i : Instr), s.bus = ⟨.low, b⟩ :: rest →
      decodeCommandByte b = some i → step s = exec i { s with bus := rest }

/-- 20_memory.md section 1: with no whole request waiting, a step makes the host's next access; a read hands
over the register and changes nothing else, a write to REQ or PAYLOAD appends one word or one byte, a write
to STATUS or GEOMETRY is ignored, an access at an offset that is no multiple of 4 stops the machine (the
model's choice, log 8), and with no access to make the machine idles (log 1). That a write to REQ or PAYLOAD
appends in every state, also when no SEND_DATA is being supplied, is the model's choice (log 7). -/
def Obligations.StepMakesTheHostAccess : Prop :=
  ∀ (s : State) (rest : List HostAccess) (w : Word), s.bus = [] →
    decodeRequest s.req s.payload = .incomplete →
    (s.accesses = [] → step s = .next s) ∧
    (s.accesses = .read 0x0#4 :: rest →
      step s = .next { s with accesses := rest, readData := s.readData ++ [statusWord s.block] }) ∧
    (s.accesses = .read 0x4#4 :: rest →
      step s = .next { s with accesses := rest, readData := s.readData ++ [geometryWord s] }) ∧
    (s.accesses = .read 0x8#4 :: rest ∨ s.accesses = .read 0xC#4 :: rest →
      step s = .next { s with accesses := rest, readData := s.readData ++ [0#32] }) ∧
    (s.accesses = .write 0x0#4 w :: rest ∨ s.accesses = .write 0x4#4 w :: rest →
      step s = .next { s with accesses := rest }) ∧
    (s.accesses = .write 0x8#4 w :: rest →
      step s = .next { s with accesses := rest, req := s.req ++ [w] }) ∧
    (s.accesses = .write 0xC#4 w :: rest →
      step s = .next { s with accesses := rest, payload := s.payload ++ [w.setWidth 8] }) ∧
    ∀ off : BitVec 4, off ∉ [0x0#4, 0x4#4, 0x8#4, 0xC#4] →
      (s.accesses = .read off :: rest ∨ s.accesses = .write off w :: rest) →
      step s = .fault .unalignedHostAccess

/-- 10_state.md sections 2 and 3: the codes of S.STATE and of S.LAST_ERR, and the layout of STATUS and of
GEOMETRY. -/
def Obligations.StatusAndGeometryLayout : Prop :=
  (stateCode .uninitialized = 0 ∧ stateCode .resetting = 1 ∧ stateCode .configuring = 2 ∧
      stateCode .ready = 3 ∧ stateCode .faulted = 4 ∧ stateCode .closed = 5) ∧
    (errCode .none = 0 ∧ errCode .transport = 1 ∧ errCode .lineControl = 2 ∧ errCode .bounds = 3 ∧
      errCode .notPermitted = 4 ∧ errCode .illegal = 5) ∧
    (∀ b : Block, (statusWord b).extractLsb' 0 3 = stateCode b.state ∧ (statusWord b).extractLsb' 3 1 = 0 ∧
      (statusWord b).extractLsb' 4 2 = b.rot ∧ (statusWord b).extractLsb' 6 2 = 0 ∧
      (statusWord b).extractLsb' 8 4 = errCode b.lastErr ∧ (statusWord b).extractLsb' 12 20 = 0) ∧
    ∀ s : State, s.params.Valid →
      ((geometryWord s).extractLsb' 0 16).toNat = s.width ∧
        ((geometryWord s).extractLsb' 16 16).toNat = s.height

/-- 10_state.md section 4 (a host read of STATUS.STATE never returns 2): in a state that meets the machine's
invariant a read of STATUS gives no state code 2, 6 or 7. -/
def Obligations.StatusNeverShowsConfiguring : Prop :=
  ∀ s : State, s.Inv → ∃ w, hostReadValue 0x0#4 s = some w ∧
    w.extractLsb' 0 3 ≠ 2 ∧ w.extractLsb' 0 3 ≠ 6 ∧ w.extractLsb' 0 3 ≠ 7

/-! ### Construction and the invariant -/

/-- 10_state.md section 4 and 70_reset_and_hazards.md section 1: the state after a successful construction,
with the size that was given at the rotation that was given. -/
def Obligations.ConstructionState : Prop :=
  ∀ (c : DisplayConfig) (chunk maxBytes : Nat) (table : List InitEntry) (roles : List InitRole),
    ∃ t, State.construct? (constructParams c chunk maxBytes table roles) true true = some t ∧
      t.block.state = .uninitialized ∧ t.block.rot.toNat = c.rotation % 4 ∧ t.block.lastErr = .none ∧
      t.block.lineDC = .unknown ∧ t.block.lineRST = .unknown ∧ t.block.lineCS = .unknown ∧
      t.block.claimed = true ∧ t.panel = Panel.indeterminate ∧ t.trace = [] ∧
      t.width = c.width ∧ t.height = c.height

/-- 70_reset_and_hazards.md R148: when a line cannot be claimed or the transport cannot be opened, no block
exists: there is no state. -/
def Obligations.ConstructionFailureGivesNoBlock : Prop :=
  ∀ (p : Params) (claimsOk openOk : Bool), claimsOk = false ∨ openOk = false →
    State.construct? p claimsOk openOk = none

/-- The machine's invariant holds at reset. -/
def Obligations.ResetMeetsInvariant : Prop :=
  State.reset.Inv ∧ State.reset.trace = [] ∧ ∃ p : Params, p.Valid ∧ State.reset = State.constructed p

/-- Every step keeps the machine's invariant: no request boundary in `Configuring`, the lines held until
CLOSE, CS never left asserted, RST high after a pulse, the framebuffer in its canonical form and inside the
logical frame, the panel live exactly between a completed pulse and a failure or CLOSE. -/
def Obligations.StepKeepsInvariant : Prop :=
  ∀ s t : State, s.Inv → step s = .next t → t.Inv

/-- 20_memory.md sections 2 and 5: the trace only grows, by the events of the step, and no step changes the
parameters (10_state.md section 5). -/
def Obligations.TraceOnlyGrows : Prop :=
  ∀ s t : State, step s = .next t → (∃ evs, t.trace = s.trace ++ evs) ∧ t.params = s.params

/-! ### The Framer -/

/-- 40_framer.md R88: a successful transaction emits exactly four events, in this order, on every call. -/
def Obligations.FrameEmitsFourEvents : Prop :=
  ∀ (dc : Level) (bs : List Byte) (s : State), s.answersOk 4 →
    ∃ t, frame dc bs s = .done t ∧
      t.trace = s.trace ++
        [.setLine .dc dc true, .setLine .cs .low true, .write bs none, .setLine .cs .high true] ∧
      t.block = { s.block with lineDC := .known dc, lineCS := .known .high } ∧ Carried 4 s t

/-- 40_framer.md section 1, the table of failures: each failing event, what follows it, the error raised, and
the line shadows left (10_state.md section 3). The first error is the one reported. -/
def Obligations.FrameFailureTable : Prop :=
  ∀ (dc : Level) (bs : List Byte) (s : State) (k : Nat) (a : Answer) (rest : List Answer),
    (s.answers = .fail k :: rest →
      ∃ t, frame dc bs s = .raised .lineControl t ∧ t.trace = s.trace ++ [.setLine .dc dc false] ∧
        t.block = { s.block with lineDC := .unknown }) ∧
    (s.answers = .ok :: .fail k :: a :: rest →
      ∃ t, frame dc bs s = .raised .lineControl t ∧
        t.trace = s.trace ++
          [.setLine .dc dc true, .setLine .cs .low false, .setLine .cs .high (a == .ok)] ∧
        t.block = { s.block with
          lineDC := .known dc, lineCS := if a = .ok then .known .high else .unknown }) ∧
    (s.answers = .ok :: .ok :: .fail k :: a :: rest →
      ∃ t, frame dc bs s = .raised .transport t ∧
        t.trace = s.trace ++
          [.setLine .dc dc true, .setLine .cs .low true, .write bs (some (min k bs.length)),
            .setLine .cs .high (a == .ok)] ∧
        t.block = { s.block with
          lineDC := .known dc, lineCS := if a = .ok then .known .high else .unknown }) ∧
    (s.answers = .ok :: .ok :: .ok :: .fail k :: rest →
      ∃ t, frame dc bs s = .raised .lineControl t ∧
        t.trace = s.trace ++
          [.setLine .dc dc true, .setLine .cs .low true, .write bs none, .setLine .cs .high false] ∧
        t.block = { s.block with lineDC := .known dc, lineCS := .unknown })

/-- SEND_CMD completes (40_framer.md section 2): `C(CMD)`, only LAST_ERR and the DC and CS shadows change in
the block, and the panel reads the byte. -/
def Obligations.SendCmdCompletes : Prop :=
  ∀ (cmd : Byte) (s : State), s.block.state ∈ [.uninitialized, .resetting, .ready] → s.answersOk 4 →
    ∃ t, exec (.sendCmd cmd) s = .next t ∧ t.trace = s.trace ++ cmdEvents cmd ∧
      t.block = { s.block with lastErr := .none, lineDC := .known .low, lineCS := .known .high } ∧
      t.panel = panelAfter s (s.panel.readBytes s.params .low [cmd]) ∧ Carried 4 s t

/-- SEND_DATA completes (40_framer.md section 2): `D(bs)` for every payload, the empty one and one longer
than MAX_TRANSFER_BYTES too; the payload is sent as one call, not split, padded or reordered. -/
def Obligations.SendDataCompletes : Prop :=
  ∀ (bs : List Byte) (s : State), s.block.state ∈ [.uninitialized, .resetting, .ready] → s.answersOk 4 →
    ∃ t, exec (.sendData bs) s = .next t ∧ t.trace = s.trace ++ dataEvents bs ∧
      t.block = { s.block with lastErr := .none, lineDC := .known .high, lineCS := .known .high } ∧
      t.panel = panelAfter s (s.panel.readBytes s.params .high bs) ∧ Carried 4 s t

/-- A SEND_DATA whose transport call fails (40_framer.md section 2, 60_exceptions.md section 2): `Faulted`
with TRANSPORT, the sent prefix and the one deassert attempt in the trace, the panel indeterminate. -/
def Obligations.SendDataTransportFailure : Prop :=
  ∀ (bs : List Byte) (s : State) (k : Nat) (a : Answer) (rest : List Answer),
    s.block.state ∈ [.uninitialized, .resetting, .ready] →
    s.answers = .ok :: .ok :: .fail k :: a :: rest →
    ∃ t, exec (.sendData bs) s = .next t ∧
      t.trace = s.trace ++
        [.setLine .dc .high true, .setLine .cs .low true, .write bs (some (min k bs.length)),
          .setLine .cs .high (a == .ok)] ∧
      t.block = { s.block with
        state := .faulted, lastErr := .transport, lineDC := .known .high,
        lineCS := if a = .ok then .known .high else .unknown } ∧
      t.panel = Panel.indeterminate ∧ Carried 4 s t

/-- The framing discipline (40_framer.md section 2, invariants): in the events of every request, completed or
failed, each write lies between one CS assert and the next CS deassert, alone, and DC never changes there. -/
def Obligations.EveryWriteIsFramed : Prop :=
  ∀ (i : Instr) (s t : State), exec i s = .next t →
    ∃ evs, t.trace = s.trace ++ evs ∧ csDiscipline .idle evs = true

/-! ### The Controller State Machine -/

/-- RESET completes (41_controller.md section 1): `PULSE`, `Resetting`, RST high, everything else in the block
as it was, and the panel reset (20_memory.md section 6). -/
def Obligations.ResetCompletes : Prop :=
  ∀ s : State, s.block.state ∈ [.uninitialized, .resetting, .ready, .faulted] → s.answersOk 3 →
    ∃ t, exec .reset s = .next t ∧ t.trace = s.trace ++ pulseEvents ∧
      t.block = { s.block with state := .resetting, lastErr := .none, lineRST := .known .high } ∧
      t.panel = Panel.afterReset ∧ Carried 3 s t

/-- RESET with a failing `SetLine` (41_controller.md section 1): the remaining events are not emitted, the
block is `Faulted` with LINE_CONTROL, RST is unknown and the panel indeterminate. -/
def Obligations.ResetStopsAtFailingLine : Prop :=
  ∀ (s : State) (n k : Nat) (rest : List Answer),
    s.block.state ∈ [.uninitialized, .resetting, .ready, .faulted] → n < 3 →
    s.answers = List.replicate n .ok ++ .fail k :: rest →
    ∃ t, exec .reset s = .next t ∧
      t.trace = s.trace ++ pulseEvents.take (2 * n) ++
        [.setLine .rst (if n = 1 then .low else .high) false] ∧
      t.block = { s.block with state := .faulted, lastErr := .lineControl, lineRST := .unknown } ∧
      t.panel = Panel.indeterminate ∧ Carried (n + 1) s t

/-- INITIALIZE completes (41_controller.md section 2): the events of INIT_TABLE's entries in order, `Ready`,
S.ROT and RST as they were, CS high and DC known, and nothing known of the panel but that it is live
(20_memory.md section 6). -/
def Obligations.InitializeCompletes : Prop :=
  ∀ s : State, s.block.state = .resetting → s.params.Valid →
    s.answersOk (answersOf (s.params.initTable.flatMap entryEvents)) →
    ∃ t, exec .initializePanel s = .next t ∧
      t.trace = s.trace ++ s.params.initTable.flatMap entryEvents ∧
      t.block.state = .ready ∧ t.block.lastErr = .none ∧ t.block.rot = s.block.rot ∧
      t.block.claimed = s.block.claimed ∧ t.block.lineRST = s.block.lineRST ∧
      t.block.lineCS = .known .high ∧ t.block.lineDC ≠ .unknown ∧
      t.panel = Panel.blank s.panel.live ∧
      Carried (answersOf (s.params.initTable.flatMap entryEvents)) s t

/-- SET_ROTATION completes (41_controller.md section 3): both transactions, whatever the rotation before;
the byte sent is the entry of MADCTL_TABLE (30_encoding.md section 3) at R mod 4, S.ROT is R mod 4; and a live
panel then holds that byte, and nothing is known of its frame. -/
def Obligations.SetRotationCompletes : Prop :=
  ∀ (r : Word) (s : State), s.block.state = .ready → s.answersOk 8 →
    ∃ (b : Byte) (t : State), [0x48#8, 0x28#8, 0x88#8, 0xE8#8][r.toNat % 4]? = some b ∧
      exec (.setRotation r) s = .next t ∧
      t.trace = s.trace ++ cmdEvents 0x36#8 ++ dataEvents [b] ∧
      t.block = { s.block with
        rot := rotationIndex r, lastErr := .none, lineDC := .known .high, lineCS := .known .high } ∧
      (rotationIndex r).toNat = r.toNat % 4 ∧ madctlByte (rotationIndex r) = b ∧
      t.panel = (s.panel.readBytes s.params .low [0x36#8]).readBytes s.params .high [b] ∧
      (s.panel.live = true → t.panel.madctl = some b ∧
        t.panel.cmd = some 0x36#8 ∧ t.panel.live = true ∧ ∀ x y, t.panel.fb.read x y = none) ∧
      Carried 8 s t

/-- 41_controller.md section 3 (frame size): after SET_ROTATION with index i completes, the frame size is that of i, whatever
it was before: native for an even index, swapped for an odd one. -/
def Obligations.FrameSizeAfterSetRotation : Prop :=
  ∀ (r : Word) (s t : State), exec (.setRotation r) s = .next t → t.block.lastErr = .none →
    (t.width, t.height) =
      if r.toNat % 4 % 2 = 0 then (s.params.nativeW, s.params.nativeH)
      else (s.params.nativeH, s.params.nativeW)

/-- SET_ADDRESS_WINDOW completes (41_controller.md section 4): the five transactions of the window sequence,
big-endian coordinates, only LAST_ERR and the DC and CS shadows change in the block. -/
def Obligations.SetAddressWindowCompletes : Prop :=
  ∀ (x0 y0 x1 y1 : Half) (s : State), s.block.state = .ready →
    0 ≤ x0.toInt → x0.toInt ≤ x1.toInt → x1.toInt < s.width →
    0 ≤ y0.toInt → y0.toInt ≤ y1.toInt → y1.toInt < s.height → s.answersOk 20 →
    ∃ t, exec (.setAddressWindow x0 y0 x1 y1) s = .next t ∧
      t.trace = s.trace ++ cmdEvents 0x2A#8 ++ dataEvents (bigEndian x0 ++ bigEndian x1) ++
        cmdEvents 0x2B#8 ++ dataEvents (bigEndian y0 ++ bigEndian y1) ++ cmdEvents 0x2C#8 ∧
      t.block = { s.block with lastErr := .none, lineDC := .known .low, lineCS := .known .high } ∧
      t.panel = s.panel.readWindow s.params x0.toNat y0.toNat x1.toNat y1.toNat ∧ Carried 20 s t

/-- What an armed window means to the panel (41_controller.md sections 4 and 6, 20_memory.md section 6): a
live panel with no half pixel holds the two ranges and an empty pixel stream, and no pixel of its frame
changes. -/
def Obligations.WindowSequenceArmsThePanel : Prop :=
  ∀ (cfg : Params) (p : Panel) (x0 y0 x1 y1 : Nat), p.live = true → p.half = none →
    x0 < 65536 → y0 < 65536 → x1 < 65536 → y1 < 65536 →
    p.readWindow cfg x0 y0 x1 y1 =
      { p with cmd := some 0x2C#8, args := (p.readWindow cfg x0 y0 x1 y1).args, cols := some ⟨x0, x1⟩,
               rows := some ⟨y0, y1⟩, wptr := 0 }

/-- 60_exceptions.md R130: SET_ADDRESS_WINDOW in `Ready` with InFrame false is BOUNDS, emits nothing and
changes only LAST_ERR. -/
def Obligations.WindowOutOfFrameIsBounds : Prop :=
  ∀ (x0 y0 x1 y1 : Half) (s : State), s.block.state = .ready →
    ¬(0 ≤ x0.toInt ∧ x0.toInt ≤ x1.toInt ∧ x1.toInt < s.width ∧
      0 ≤ y0.toInt ∧ y0.toInt ≤ y1.toInt ∧ y1.toInt < s.height) →
    exec (.setAddressWindow x0 y0 x1 y1) s =
      .next { s with block := { s.block with lastErr := .bounds } }

/-- CLOSE outside `Closed` (41_controller.md section 5): every release is attempted, in the order DC, RST,
CS, whatever the oracle answers; the first failure is reported; the block ends in `Closed`, never in
`Faulted`, with no line claimed and every shadow unknown. -/
def Obligations.CloseReleasesEveryLine : Prop :=
  ∀ (s : State) (a b c : Answer) (rest : List Answer), s.block.state ≠ .closed →
    s.answers = a :: b :: c :: rest →
    ∃ t, exec .close s = .next t ∧
      t.trace = s.trace ++
        [.release .dc (a == .ok), .release .rst (b == .ok), .release .cs (c == .ok)] ∧
      t.block = { s.block with
        state := .closed, claimed := false, lineDC := .unknown, lineRST := .unknown, lineCS := .unknown,
        lastErr := if a = .ok ∧ b = .ok ∧ c = .ok then .none else .lineControl } ∧
      t.panel = Panel.indeterminate ∧ Carried 3 s t

/-- After `Closed` (41_controller.md section 5): CLOSE is a no-op with NONE, a reserved request is ILLEGAL,
every other request is NOT_PERMITTED, and no event is ever emitted again. -/
def Obligations.ClosedIsFinal : Prop :=
  ∀ (i : Instr) (s : State), s.block.state = .closed → i.isRequest = true →
    exec i s = .next { s with block := { s.block with
      lastErr := if i = .close then .none else if isReservedRow i = true then .illegal
        else .notPermitted } }

/-! ### The Pixel Fill Engine -/

/-- FILL_REGION of a non-empty clip completes (42_pixel_fill.md sections 1 and 2): the window of the clipped
rectangle, then its chunks. -/
def Obligations.FillRegionCompletes : Prop :=
  ∀ (x y w h : Half) (color : Word) (s : State) (r : Rect), s.block.state = .ready →
    clip s.width s.height x.toInt y.toInt w.toInt h.toInt = some r →
    s.answersOk (answersOf (fillEvents s.params.chunkPixels r (colour16 color))) →
    ∃ t, exec (.fillRegion x y w h color) s = .next t ∧
      t.trace = s.trace ++ fillEvents s.params.chunkPixels r (colour16 color) ∧
      t.block = { s.block with lastErr := .none, lineDC := .known .high, lineCS := .known .high } ∧
      t.panel = (s.panel.readWindow s.params r.x r.y (r.x + r.w - 1) (r.y + r.h - 1)).readChunks s.params
        (pixelChunks s.params.chunkPixels (r.w * r.h) (colour16 color)) ∧
      Carried (answersOf (fillEvents s.params.chunkPixels r (colour16 color))) s t

/-- 42_pixel_fill.md R120: a fill request whose clipped area is empty emits no event and sets LAST_ERR to
NONE; nothing else changes. FILL_SCREEN is never empty. -/
def Obligations.EmptyFillEmitsNothing : Prop :=
  (∀ (x y w h : Half) (color : Word) (s : State), s.block.state = .ready →
      clip s.width s.height x.toInt y.toInt w.toInt h.toInt = none →
      exec (.fillRegion x y w h color) s = .next { s with block := { s.block with lastErr := .none } }) ∧
    (∀ (x y : Half) (color : Word) (s : State), s.block.state = .ready →
      clip s.width s.height x.toInt y.toInt 1 1 = none →
      exec (.setPixel x y color) s = .next { s with block := { s.block with lastErr := .none } }) ∧
    ∀ s : State, s.params.Valid → clip s.width s.height 0 0 s.width s.height ≠ none

/-- FILL_SCREEN completes (42_pixel_fill.md section 2): the window of the whole logical frame, then its
chunks. -/
def Obligations.FillScreenCompletes : Prop :=
  ∀ (color : Word) (s : State) (r : Rect), s.params.Valid → s.block.state = .ready →
    r = ⟨0, 0, s.width, s.height⟩ →
    s.answersOk (answersOf (fillEvents s.params.chunkPixels r (colour16 color))) →
    ∃ t, exec (.fillScreen color) s = .next t ∧
      t.trace = s.trace ++ fillEvents s.params.chunkPixels r (colour16 color) ∧
      t.block = { s.block with lastErr := .none, lineDC := .known .high, lineCS := .known .high } ∧
      t.panel = (s.panel.readWindow s.params 0 0 (s.width - 1) (s.height - 1)).readChunks s.params
        (pixelChunks s.params.chunkPixels (s.width * s.height) (colour16 color)) ∧
      Carried (answersOf (fillEvents s.params.chunkPixels r (colour16 color))) s t

/-- 42_pixel_fill.md section 2 (FILL_SCREEN, corner cases): FILL_SCREEN is FILL_REGION of the whole frame,
in every state and whatever the oracle answers. -/
def Obligations.FillScreenIsFullFillRegion : Prop :=
  ∀ (color : Word) (s : State), s.params.Valid →
    exec (.fillScreen color) s =
      exec (.fillRegion 0 0 (BitVec.ofNat 16 s.width) (BitVec.ofNat 16 s.height) color) s

/-- SET_PIXEL of a pixel in the frame completes (42_pixel_fill.md section 2): 24 events, a one-pixel window
and the colour's byte pair, for every chunk size. -/
def Obligations.SetPixelCompletes : Prop :=
  ∀ (x y : Half) (color : Word) (s : State), s.block.state = .ready →
    0 ≤ x.toInt → x.toInt < s.width → 0 ≤ y.toInt → y.toInt < s.height → s.answersOk 24 →
    ∃ t, exec (.setPixel x y color) s = .next t ∧
      t.trace = s.trace ++ windowEvents x.toNat y.toNat x.toNat y.toNat ++
        dataEvents [hiByte (colour16 color), loByte (colour16 color)] ∧
      t.block = { s.block with lastErr := .none, lineDC := .known .high, lineCS := .known .high } ∧
      t.panel = (s.panel.readWindow s.params x.toNat y.toNat x.toNat y.toNat).readBytes s.params .high
        [hiByte (colour16 color), loByte (colour16 color)] ∧
      Carried 24 s t

/-- 42_pixel_fill.md section 2 (SET_PIXEL): exactly FILL_REGION with w = h = 1, in every state and whatever
the oracle answers. -/
def Obligations.SetPixelIsUnitFillRegion : Prop :=
  ∀ (x y : Half) (color : Word) (s : State), s.params.Valid →
    exec (.setPixel x y color) s = exec (.fillRegion x y 1 1 color) s

/-- 42_pixel_fill.md section 1 (Clip): clipping is the intersection with the frame; the result lies in the
frame and is not empty, and it is EMPTY exactly when no pixel of the frame lies in the rectangle. -/
def Obligations.ClipIsTheIntersection : Prop :=
  ∀ (fw fh : Nat) (x y w h : Int),
    (∀ r, clip fw fh x y w h = some r →
      1 ≤ r.w ∧ 1 ≤ r.h ∧ r.x + r.w ≤ fw ∧ r.y + r.h ≤ fh ∧
        ∀ px py : Nat, px < fw → py < fh →
          ((r.x ≤ px ∧ px < r.x + r.w ∧ r.y ≤ py ∧ py < r.y + r.h) ↔
            (x ≤ px ∧ (px : Int) < x + w ∧ y ≤ py ∧ (py : Int) < y + h))) ∧
    (clip fw fh x y w h = none ↔
      ∀ px py : Nat, px < fw → py < fh →
        ¬(x ≤ px ∧ (px : Int) < x + w ∧ y ≤ py ∧ (py : Int) < y + h))

/-- 42_pixel_fill.md sections 1 and 3 (chunk counts, byte totals, chunk bound): `ceil(P / CHUNK_PIXELS)`
pixel data transactions; all but the last carry CHUNK_PIXELS pixels; together they are the colour's pair P
times, high byte first, so 2 P bytes; each carries an even number of bytes, between 2 and 2 CHUNK_PIXELS, and
no more than MAX_TRANSFER_BYTES. -/
def Obligations.ChunksCoverThePixels : Prop :=
  ∀ (p : Params) (pixels : Nat) (c : Half), p.Valid →
    (pixelChunks p.chunkPixels pixels c).length = ceilDiv pixels p.chunkPixels ∧
      (pixelChunks p.chunkPixels pixels c).flatten =
        (List.replicate pixels [c.extractLsb' 8 8, c.extractLsb' 0 8]).flatten ∧
      (pixelChunks p.chunkPixels pixels c).flatten.length = 2 * pixels ∧
      (∀ bs ∈ (pixelChunks p.chunkPixels pixels c).dropLast, bs.length = 2 * p.chunkPixels) ∧
      ∀ bs ∈ pixelChunks p.chunkPixels pixels c,
        ∃ k, bs.length = 2 * k ∧ 1 ≤ k ∧ k ≤ p.chunkPixels ∧ bs.length ≤ p.maxTransferBytes

/-- The effect on the picture (42_pixel_fill.md section 3, last rule): a fill request of any of the three
kinds that completes in `Ready`, with the panel live and holding the rotation's byte, makes every pixel of
its rectangle the colour and leaves every other pixel as it was; and the panel's ranges, context and write
position are the rule's. The premise that no half pixel waits is the model's addition (log 14): a half pixel
is dropped by the 0x2A and its pixel becomes unknown (20_memory.md section 6). -/
def Obligations.FillPaintsThePicture : Prop :=
  ∀ (i : Instr) (s : State) (r : Rect) (c : Half), s.params.Valid → s.block.state = .ready →
    s.panel.live = true → s.panel.madctl = some (madctlByte s.block.rot) → s.panel.half = none →
    fillTarget s i = some (r, c) → s.answersOk (answersOf (fillEvents s.params.chunkPixels r c)) →
    ∃ t, exec i s = .next t ∧ t.block.lastErr = .none ∧
      (∀ x y, t.panel.fb.read x y =
        if r.x ≤ x ∧ x < r.x + r.w ∧ r.y ≤ y ∧ y < r.y + r.h then some c else s.panel.fb.read x y) ∧
      t.panel.cols = some ⟨r.x, r.x + r.w - 1⟩ ∧ t.panel.rows = some ⟨r.y, r.y + r.h - 1⟩ ∧
      t.panel.cmd = some 0x2C#8 ∧ t.panel.wptr = r.w * r.h ∧ t.panel.half = none ∧
      t.panel.madctl = s.panel.madctl ∧ t.panel.live = true

/-- 42_pixel_fill.md section 3 (failure inside a fill): a transport failure in the n-th pixel chunk stops the
fill at once, after one CS deassert attempt; no later chunk is sent, the block is `Faulted`, and the panel is
indeterminate. -/
def Obligations.FillStopsAtFailingChunk : Prop :=
  ∀ (i : Instr) (s : State) (r : Rect) (c : Half) (n k : Nat) (a : Answer) (rest : List Answer)
    (bs : List Byte), s.block.state = .ready → fillTarget s i = some (r, c) → s.params.Valid →
    (pixelChunks s.params.chunkPixels (r.w * r.h) c)[n]? = some bs →
    s.answers = List.replicate (20 + 4 * n + 2) .ok ++ .fail k :: a :: rest →
    ∃ t, exec i s = .next t ∧
      t.trace = s.trace ++ windowEvents r.x r.y (r.x + r.w - 1) (r.y + r.h - 1) ++
        ((pixelChunks s.params.chunkPixels (r.w * r.h) c).take n).flatMap dataEvents ++
        [.setLine .dc .high true, .setLine .cs .low true, .write bs (some (min k bs.length)),
          .setLine .cs .high (a == .ok)] ∧
      t.block = { s.block with
        state := .faulted, lastErr := .transport, lineDC := .known .high,
        lineCS := if a = .ok then .known .high else .unknown } ∧
      t.panel = Panel.indeterminate ∧ Carried (20 + 4 * n + 4) s t

/-! ### Errors, permission, whole-machine rules -/

/-- The state permission table (60_exceptions.md section 1): a request that its row does not permit is
NOT_PERMITTED, with no event and no change but LAST_ERR; one that it permits is not NOT_PERMITTED. -/
def Obligations.PermissionTableDecides : Prop :=
  ∀ (i : Instr) (s : State), i.isRequest = true → isReservedRow i = false →
    s.block.state ≠ .configuring →
    (s.block.state ∉ permissionTable i →
      exec i s = .next { s with block := { s.block with lastErr := .notPermitted } }) ∧
    (s.block.state ∈ permissionTable i →
      ∃ t, exec i s = .next t ∧ t.block.lastErr ≠ .notPermitted)

/-- Raising an error and fault entry (60_exceptions.md section 2): a request other than CLOSE that ends with
TRANSPORT or LINE_CONTROL has emitted the events of its completed form up to one that failed, which decides
the error, and after it nothing but the one CS deassert attempt of 40_framer.md section 1 (so the rest of
INIT_TABLE is not sent, 41_controller.md section 2); the block is `Faulted`, S.ROT, CLAIMED and the streams
are as they were, CS is not asserted unless it was before, and the panel is indeterminate; TRANSPORT or
LINE_CONTROL from CLOSE leaves it `Closed`. -/
def Obligations.FailureEntersFaulted : Prop :=
  ∀ (i : Instr) (s t : State), i.isRequest = true → exec i s = .next t →
    t.block.lastErr = .transport ∨ t.block.lastErr = .lineControl →
    (i ≠ .close → t.block.state = .faulted ∧ t.block.rot = s.block.rot ∧
      t.block.claimed = s.block.claimed ∧
      (s.block.lineCS ≠ .known .low → t.block.lineCS ≠ .known .low) ∧
      ∃ (n : Nat) (e e' : Event) (ok : Bool), (completedEvents s i)[n]? = some e ∧ FailsAs e e' ∧
        t.trace = s.trace ++ (completedEvents s i).take n ++ e' :: deassertAfter e' ok ∧
        t.block.lastErr = raisedBy e') ∧
    (i = .close → t.block.state = .closed ∧ t.block.lastErr = .lineControl) ∧
    t.panel = Panel.indeterminate ∧ t.req = s.req ∧ t.payload = s.payload

/-- Rejections are precise (60_exceptions.md section 2): a request that ends with ILLEGAL, NOT_PERMITTED or
BOUNDS has no effect but its result code, emits nothing and asks the oracle nothing. -/
def Obligations.RejectionChangesOnlyTheResult : Prop :=
  ∀ (i : Instr) (s t : State), i.isRequest = true → exec i s = .next t →
    t.block.lastErr ∈ [.illegal, .notPermitted, .bounds] →
    t = { s with block := { s.block with lastErr := t.block.lastErr } }

/-- 42_pixel_fill.md and 60_exceptions.md, sections on BOUNDS: only SET_ADDRESS_WINDOW reports BOUNDS, and
only in `Ready`; only a reserved request is ILLEGAL. -/
def Obligations.BoundsOnlyFromSetAddressWindow : Prop :=
  ∀ (i : Instr) (s t : State), i.isRequest = true → exec i s = .next t →
    (t.block.lastErr = .bounds →
      s.block.state = .ready ∧ ∃ x0 y0 x1 y1, i = .setAddressWindow x0 y0 x1 y1) ∧
    (t.block.lastErr = .illegal ↔ isReservedRow i = true)

/-- 10_state.md section 5: `Faulted` is left by RESET alone, toward `Resetting` or back to `Faulted`, and by
CLOSE, toward `Closed`; `Closed` is never left. -/
def Obligations.FaultedLeftOnlyByResetOrClose : Prop :=
  ∀ (i : Instr) (s t : State), exec i s = .next t →
    (s.block.state = .faulted →
      t.block.state = .faulted ∨ (i = .reset ∧ t.block.state = .resetting) ∨
        (i = .close ∧ t.block.state = .closed)) ∧
    (s.block.state = .closed → t.block.state = .closed)

/-- 10_state.md section 2 and 41_controller.md section 6: only a SET_ROTATION that completes without error
writes S.ROT, and it then holds R mod 4; CLAIMED is cleared by CLOSE alone. -/
def Obligations.RotationWrittenOnlyBySetRotation : Prop :=
  ∀ (i : Instr) (s t : State), exec i s = .next t →
    (t.block.rot ≠ s.block.rot →
      ∃ r, i = .setRotation r ∧ t.block.lastErr = .none ∧ t.block.rot.toNat = r.toNat % 4) ∧
    (t.block.claimed ≠ s.block.claimed → i = .close)

/-- 41_controller.md section 2 (INITIALIZE state transitions): no path but INITIALIZE from `Resetting`
reaches `Ready`, and no request ends in `Configuring` unless it started there. -/
def Obligations.ReadyOnlyFromInitialize : Prop :=
  ∀ (i : Instr) (s t : State), exec i s = .next t →
    (t.block.state = .ready → s.block.state ≠ .ready →
      i = .initializePanel ∧ s.block.state = .resetting ∧ t.block.lastErr = .none) ∧
    (t.block.state = .configuring → s.block.state = .configuring)

/-- 70_reset_and_hazards.md section 3 (every request ends): a request emits no more events than its completed
form. -/
def Obligations.EventCountIsBounded : Prop :=
  ∀ (i : Instr) (s : State), s.params.Valid →
    ∃ t, exec i s = .next t ∧ t.trace.length ≤ s.trace.length + eventBound s i

/-- 10_state.md section 5 (LAST_ERR is never read): no request's behaviour depends on the result of an
earlier one. -/
def Obligations.LastErrIsNeverRead : Prop :=
  ∀ (i : Instr) (s : State) (e : ErrCode), i.isRequest = true →
    exec i { s with block := { s.block with lastErr := e } } = exec i s

/-- 10_state.md sections 3 and 5, 20_memory.md section 6: no request's events, result or control state depend
on the line shadows or on the panel. -/
def Obligations.ShadowsAndPanelAreNeverRead : Prop :=
  ∀ (i : Instr) (s t : State) (d r c : Shadow) (p : Panel), i.isRequest = true → exec i s = .next t →
    ∃ t', exec i { s with
        block := { s.block with lineDC := d, lineRST := r, lineCS := c }, panel := p } = .next t' ∧
      t'.trace = t.trace ∧ t'.block.state = t.block.state ∧ t'.block.rot = t.block.rot ∧
      t'.block.lastErr = t.block.lastErr ∧ t'.block.claimed = t.block.claimed ∧
      t'.answers = t.answers ∧ t'.asked = t.asked

/-! ### The panel -/

/-- 20_memory.md section 6 (column address set): the command byte 0x2A, which changes nothing but the context, the column range and the
half pixel it drops (section 6, loose data); the four data bytes that latch the range; a fifth that loses it;
a command byte before the fourth that leaves it unknown. What the dropped half pixel leaves unknown is the
model's choice: every pixel where its position is not fixed (log 11), the position of the stream's formula at
every write position (log 12). -/
def Obligations.PanelLatchesColumns : Prop :=
  (∀ s : State, s.panel.live = true →
      ∃ t, exec .panelColumnAddressSet s = .next t ∧
        t.panel = { s.panel with
          cmd := some 0x2A#8, args := [], cols := none, half := t.panel.half, fb := t.panel.fb } ∧
        (s.panel.half = none ∨ s.panel.cmd = some 0x2C#8 → t.panel.half = none) ∧
        (s.panel.half = none → t.panel.fb = s.panel.fb) ∧
        (∀ x y, t.panel.fb.read x y = s.panel.pixelAfterDrop s.params x y) ∧
        t.block = s.block ∧ t.trace = s.trace ∧ Carried 0 s t) ∧
    ∀ (cfg : Params) (p : Panel) (bs : List Byte), p.live = true → p.cmd = some 0x2A#8 → p.args = [] →
      p.cols = none →
      p.readBytes cfg .high bs = { p with args := bs, cols := (p.readBytes cfg .high bs).cols } ∧
      (bs.length < 4 → (p.readBytes cfg .high bs).cols = none ∧
        ∀ c, ((p.readBytes cfg .high bs).readBytes cfg .low [c]).cols = none) ∧
      (∀ a b c d, bs = [a, b, c, d] →
        (p.readBytes cfg .high bs).cols = some ⟨(a ++ b).toNat, (c ++ d).toNat⟩) ∧
      (5 ≤ bs.length → (p.readBytes cfg .high bs).cols = none)

/-- 20_memory.md section 6 (row address set): the same for the command byte 0x2B and the row range. What the
dropped half pixel leaves unknown is the model's choice (logs 11 and 12). -/
def Obligations.PanelLatchesRows : Prop :=
  (∀ s : State, s.panel.live = true →
      ∃ t, exec .panelRowAddressSet s = .next t ∧
        t.panel = { s.panel with
          cmd := some 0x2B#8, args := [], rows := none, half := t.panel.half, fb := t.panel.fb } ∧
        (s.panel.half = none ∨ s.panel.cmd = some 0x2C#8 → t.panel.half = none) ∧
        (s.panel.half = none → t.panel.fb = s.panel.fb) ∧
        (∀ x y, t.panel.fb.read x y = s.panel.pixelAfterDrop s.params x y) ∧
        t.block = s.block ∧ t.trace = s.trace ∧ Carried 0 s t) ∧
    ∀ (cfg : Params) (p : Panel) (bs : List Byte), p.live = true → p.cmd = some 0x2B#8 → p.args = [] →
      p.rows = none →
      p.readBytes cfg .high bs = { p with args := bs, rows := (p.readBytes cfg .high bs).rows } ∧
      (bs.length < 4 → (p.readBytes cfg .high bs).rows = none ∧
        ∀ c, ((p.readBytes cfg .high bs).readBytes cfg .low [c]).rows = none) ∧
      (∀ a b c d, bs = [a, b, c, d] →
        (p.readBytes cfg .high bs).rows = some ⟨(a ++ b).toNat, (c ++ d).toNat⟩) ∧
      (5 ≤ bs.length → (p.readBytes cfg .high bs).rows = none)

/-- 20_memory.md section 6 (memory write arm): the command byte 0x2C arms an empty pixel stream; the ranges
are kept, and so is everything but the half pixel it drops (section 6, loose data). What the dropped half
pixel leaves unknown is the model's choice (logs 11 and 12). -/
def Obligations.PanelMemoryWriteArms : Prop :=
  ∀ s : State, s.panel.live = true →
    ∃ t, exec .panelMemoryWrite s = .next t ∧
      t.panel = { s.panel with cmd := some 0x2C#8, wptr := 0, half := none, fb := t.panel.fb } ∧
      (s.panel.half = none → t.panel.fb = s.panel.fb) ∧
      (∀ x y, t.panel.fb.read x y = s.panel.pixelAfterDrop s.params x y) ∧
      t.block = s.block ∧ t.trace = s.trace ∧ Carried 0 s t

/-- 20_memory.md section 6 (memory access control): the command byte 0x36, which drops a waiting half pixel
(section 6, loose data); its first data byte, after which the whole frame is unknown; a second, after which the
byte is. What the dropped half pixel leaves unknown is the model's choice (logs 11 and 12). -/
def Obligations.PanelMemoryAccessControl : Prop :=
  (∀ s : State, s.panel.live = true →
      ∃ t, exec .panelMemoryAccessControl s = .next t ∧
        t.panel = { s.panel with
          cmd := some 0x36#8, args := [], half := t.panel.half, fb := t.panel.fb } ∧
        (s.panel.half = none ∨ s.panel.cmd = some 0x2C#8 → t.panel.half = none) ∧
        (s.panel.half = none → t.panel.fb = s.panel.fb) ∧
        (∀ x y, t.panel.fb.read x y = s.panel.pixelAfterDrop s.params x y) ∧
        t.block = s.block ∧ t.trace = s.trace ∧ Carried 0 s t) ∧
    ∀ (cfg : Params) (p : Panel) (b b' : Byte), p.live = true → p.cmd = some 0x36#8 → p.args = [] →
      (∃ q, p.readBytes cfg .high [b] = { p with args := [b], madctl := some b, fb := q } ∧
        ∀ x y, q.read x y = none) ∧
        (p.readBytes cfg .high [b, b']).madctl = none

/-- 20_memory.md R60: the pixel stream, byte by byte: the first byte of a pair waits; the second completes a
pixel, high byte first; inside the window the pixel at the write position takes it and every other pixel is
unchanged; past the window every pixel of the window becomes unknown and every other is unchanged; without a
window that lies in the frame the contents become unknown. -/
def Obligations.PanelPixelStream : Prop :=
  ∀ (cfg : Params) (p : Panel) (b : Byte), p.live = true → p.cmd = some 0x2C#8 →
    (p.half = none → p.readBytes cfg .high [b] = { p with half := some b }) ∧
    ∀ hb, p.half = some hb →
      (∀ (xs xe ys ye : Nat) (i : BitVec 2), p.cols = some ⟨xs, xe⟩ → p.rows = some ⟨ys, ye⟩ →
        xs ≤ xe → ys ≤ ye → p.madctl = some (madctlByte i) → xe < frameW cfg i → ye < frameH cfg i →
        (p.readBytes cfg .high [b]).half = none ∧
        (p.readBytes cfg .high [b]).wptr = p.wptr + 1 ∧
        (p.readBytes cfg .high [b]).cols = p.cols ∧ (p.readBytes cfg .high [b]).rows = p.rows ∧
        (p.readBytes cfg .high [b]).madctl = p.madctl ∧ (p.readBytes cfg .high [b]).cmd = p.cmd ∧
        ∀ x y, (p.readBytes cfg .high [b]).fb.read x y =
          if p.wptr < (xe - xs + 1) * (ye - ys + 1) then
            if x = xs + p.wptr % (xe - xs + 1) ∧ y = ys + p.wptr / (xe - xs + 1) then some (hb ++ b)
            else p.fb.read x y
          else if xs ≤ x ∧ x ≤ xe ∧ ys ≤ y ∧ y ≤ ye then none else p.fb.read x y) ∧
      ((¬∃ (xs xe ys ye : Nat) (i : BitVec 2), p.cols = some ⟨xs, xe⟩ ∧ p.rows = some ⟨ys, ye⟩ ∧
          xs ≤ xe ∧ ys ≤ ye ∧ p.madctl = some (madctlByte i) ∧ xe < frameW cfg i ∧
          ye < frameH cfg i) →
        p.readBytes cfg .high [b] = Panel.blank true)

/-- 20_memory.md section 6 (other commands, loose data): a command byte the window protocol does not use
makes the contents unknown, and data bytes after it keep them so; a data byte with no command context does too.
That the context is still that command after its data bytes is the model's reading (log 13). -/
def Obligations.OtherCommandMakesContentsUnknown : Prop :=
  ∀ (cfg : Params) (p : Panel) (c : Byte) (bs : List Byte), p.live = true →
    c ∉ [0x2A#8, 0x2B#8, 0x2C#8, 0x36#8] →
    (p.readBytes cfg .low [c]).readBytes cfg .high bs = { Panel.blank true with cmd := some c } ∧
    ∀ b, p.cmd = none → p.readBytes cfg .high [b] = Panel.blank true

/-- 20_memory.md section 6 (panel reset, indeterminate events): a panel that is not live stays indeterminate
through every step but a RESET that completes, which alone makes it live. -/
def Obligations.PanelLiveOnlyByCompletedReset : Prop :=
  ∀ s t : State, s.panel = Panel.indeterminate → step s = .next t →
    t.panel = Panel.indeterminate ∨
      (t.panel = Panel.afterReset ∧ t.block.state = .resetting ∧ t.block.lastErr = .none ∧
        ∃ evs, t.trace = s.trace ++ evs ∧ evs = pulseEvents)

/-- 30_encoding.md section 3 (pixel and coordinate fields): a 16-bit value goes on the bus high byte first,
and its two bytes give it back. -/
def Obligations.BusIsBigEndian : Prop :=
  (∀ v : Half, ∃ hb lb : Byte, bigEndian v = [hb, lb] ∧ hb ++ lb = v ∧
      hb.toNat = v.toNat / 256 ∧ lb.toNat = v.toNat % 256) ∧
    bigEndian 300 = [0x01, 0x2C] ∧ bigEndian 0xF800 = [0xF8, 0x00] ∧ bigEndian 0x001F = [0x00, 0x1F]

/-- 10_state.md sections 2 and 3: nothing but S persists from one request to the next, and no buffer outlives
a request. Whatever else the host supplied with a request has no effect on that step or on any later one.
Which bytes a SEND_DATA takes of too many is the model's choice (log 7). -/
def Obligations.NothingSuppliedOutlivesARequest : Prop :=
  ∀ (i : Instr) (s : State) (ws ws' : List Word) (bs bs' : List Byte), i.wf = true → i.isRequest = true →
    s.bus = [] →
    ∃ t, step { s with req := encode i ++ ws, payload := encodePayload i ++ bs } = .next t ∧
      step { s with req := encode i ++ ws', payload := encodePayload i ++ bs' } = .next t ∧
      t.req = [] ∧ t.payload = [] ∧ t.bus = []
end

