-- ==== Sys2Proof/Laws/Encoding.lean ====
section
/-!
SUPPORT. The fields of a word: what packing and unpacking them gives, and the lengths each opcode fixes.
-/

namespace Sys2Proof

/-! ### Halves of a word -/

theorem toNat_halves (hi lo : Half) : (hi ++ lo).toNat = hi.toNat * 65536 + lo.toNat := by
  rw [BitVec.toNat_append, ← Nat.shiftLeft_add_eq_or_of_lt lo.isLt, Nat.shiftLeft_eq]

@[simp] theorem toNat_lowHalf (w : Word) : (lowHalf w).toNat = w.toNat % 65536 := by
  simp [lowHalf]

@[simp] theorem toNat_highHalf (w : Word) : (highHalf w).toNat = w.toNat / 65536 := by
  have := w.isLt
  simp [highHalf, Nat.shiftRight_eq_div_pow]
  omega

@[simp] theorem lowHalf_append (hi lo : Half) : lowHalf (hi ++ lo) = lo := by
  apply BitVec.eq_of_toNat_eq
  have := lo.isLt
  rw [toNat_lowHalf, toNat_halves]
  omega

@[simp] theorem highHalf_append (hi lo : Half) : highHalf (hi ++ lo) = hi := by
  apply BitVec.eq_of_toNat_eq
  have := lo.isLt
  rw [toNat_highHalf, toNat_halves]
  omega

@[simp] theorem highHalf_append_lowHalf (w : Word) : highHalf w ++ lowHalf w = w := by
  apply BitVec.eq_of_toNat_eq
  rw [toNat_halves, toNat_lowHalf, toNat_highHalf]
  omega

/-! ### A byte in a word -/

@[simp] theorem opcode_setWidth (b : Byte) : opcode (b.setWidth 32) = b := by
  apply BitVec.eq_of_toNat_eq
  simp [opcode]
  omega

@[simp] theorem reservedBits_setWidth (b : Byte) : reservedBits (b.setWidth 32) = 0#24 := by
  apply BitVec.eq_of_toNat_eq
  have := b.isLt
  simp [reservedBits, Nat.shiftRight_eq_div_pow]
  omega

/-- A word whose reserved bits are 0 is its opcode byte. -/
theorem setWidth_opcode {w : Word} (h : reservedBits w = 0#24) : (opcode w).setWidth 32 = w := by
  have h := congrArg BitVec.toNat h
  have := w.isLt
  apply BitVec.eq_of_toNat_eq
  simp [reservedBits, opcode, Nat.shiftRight_eq_div_pow] at h ⊢
  omega

end Sys2Proof
end

