-- ==== Sys2Proof/Laws/Memory.lean ====
section
/-!
SUPPORT. The framebuffer: every operation keeps the canonical form, a read after a write gives the colour
written, and an operation leaves every other pixel alone.
-/

namespace Sys2Proof.Machine

@[simp] theorem Pixel.isAt_iff (x y : Nat) (p : Pixel) : p.isAt x y = true ↔ p.x = x ∧ p.y = y := by
  simp [Pixel.isAt]

/-! ### The canonical form -/

theorem Memory.mem_write {m : Memory} {x y : Nat} {v : Half} {q : Pixel} (h : q ∈ m.write x y v) :
    q = ⟨x, y, v⟩ ∨ q ∈ m := by
  induction m with
  | nil => simpa [Memory.write] using h
  | cons p m ih =>
    simp only [Memory.write] at h
    split at h
    · rcases List.mem_cons.1 h with h | h
      · simp [h]
      · rcases ih h with h | h <;> simp [h]
    · split at h <;> rcases List.mem_cons.1 h with h | h <;> simp [h]

theorem Memory.write_wf {m : Memory} (hm : m.wf) (x y : Nat) (v : Half) : (m.write x y v).wf := by
  induction m with
  | nil => simp [Memory.write, Memory.wf]
  | cons p m ih =>
    obtain ⟨hp, hm'⟩ := List.pairwise_cons.1 hm
    simp only [Memory.write]
    split
    · refine List.pairwise_cons.2 ⟨fun q hq => ?_, ih hm'⟩
      rcases Memory.mem_write hq with rfl | hq
      · assumption
      · exact hp q hq
    · split
      · refine List.pairwise_cons.2 ⟨fun q hq => ?_, hm'⟩
        have := hp q hq
        simp only [Pixel.before] at *
        omega
      · refine List.pairwise_cons.2 ⟨fun q hq => ?_, hm⟩
        rcases List.mem_cons.1 hq with rfl | hq
        · simp only [Pixel.before] at *
          omega
        · have := hp q hq
          simp only [Pixel.before] at *
          omega

theorem Memory.forget_wf {m : Memory} (hm : m.wf) (x y : Nat) : (m.forget x y).wf :=
  List.Pairwise.filter _ hm

theorem Memory.forgetWindow_wf {m : Memory} (hm : m.wf) (cols rows : Span) :
    (m.forgetWindow cols rows).wf :=
  List.Pairwise.filter _ hm

/-! ### Reading -/

@[simp] theorem Memory.read_nil (x y : Nat) : Memory.read [] x y = none := rfl

theorem Memory.read_cons (p : Pixel) (m : Memory) (x y : Nat) :
    Memory.read (p :: m) x y = if p.x = x ∧ p.y = y then some p.colour else Memory.read m x y := by
  by_cases h : p.x = x ∧ p.y = y
  · have hp : p.isAt x y = true := (Pixel.isAt_iff x y p).2 h
    simp [Memory.read, List.find?, hp, h]
  · have hp : p.isAt x y = false := Bool.eq_false_iff.2 fun hp => h ((Pixel.isAt_iff x y p).1 hp)
    simp [Memory.read, List.find?, hp, h]

theorem Memory.read_write_same (m : Memory) (x y : Nat) (v : Half) :
    (m.write x y v).read x y = some v := by
  induction m with
  | nil => simp [Memory.write, Memory.read_cons]
  | cons p m ih =>
    simp only [Memory.write]
    split
    · rw [Memory.read_cons, if_neg (by omega), ih]
    · split <;> simp [Memory.read_cons]

theorem Memory.read_write_other (m : Memory) {x y x' y' : Nat} (v : Half) (h : ¬(x' = x ∧ y' = y)) :
    (m.write x y v).read x' y' = m.read x' y' := by
  induction m with
  | nil =>
    have : ¬(x = x' ∧ y = y') := by omega
    simp [Memory.write, Memory.read_cons, this]
  | cons p m ih =>
    have hxy : ¬(x = x' ∧ y = y') := by omega
    simp only [Memory.write]
    split
    · rw [Memory.read_cons, ih, ← Memory.read_cons]
    · split
      · rename_i hp
        rw [Memory.read_cons, if_neg hxy, Memory.read_cons, if_neg (by omega)]
      · rw [Memory.read_cons, if_neg hxy]

theorem Memory.read_filter (m : Memory) (keep : Pixel → Bool) (x y : Nat)
    (hk : ∀ p q : Pixel, p.x = q.x → p.y = q.y → keep p = keep q) :
    Memory.read (m.filter keep) x y = if keep ⟨x, y, 0#16⟩ then m.read x y else none := by
  induction m with
  | nil => simp
  | cons p m ih =>
    by_cases hp : keep p
    · rw [List.filter_cons_of_pos hp, Memory.read_cons, Memory.read_cons, ih]
      by_cases h : p.x = x ∧ p.y = y
      · have hk' : keep ⟨x, y, 0#16⟩ = true := (hk ⟨x, y, 0#16⟩ p h.1.symm h.2.symm).trans hp
        simp [h, hk']
      · simp [h]
    · rw [List.filter_cons_of_neg hp, ih, Memory.read_cons]
      by_cases h : p.x = x ∧ p.y = y
      · have hk' : keep ⟨x, y, 0#16⟩ ≠ true := by rwa [hk ⟨x, y, 0#16⟩ p h.1.symm h.2.symm]
        simp [hk']
      · simp [h]

theorem Memory.read_forget (m : Memory) (x y x' y' : Nat) :
    (m.forget x y).read x' y' = if x' = x ∧ y' = y then none else m.read x' y' := by
  rw [Memory.forget, Memory.read_filter]
  · by_cases h : x' = x ∧ y' = y <;> simp [Pixel.isAt, h]
  · intro p q hx hy
    simp [Pixel.isAt, hx, hy]

theorem Memory.read_forgetWindow (m : Memory) (cols rows : Span) (x y : Nat) :
    (m.forgetWindow cols rows).read x y =
      if cols.first ≤ x ∧ x ≤ cols.last ∧ rows.first ≤ y ∧ y ≤ rows.last then none else m.read x y := by
  rw [Memory.forgetWindow, Memory.read_filter]
  · by_cases h : cols.first ≤ x ∧ x ≤ cols.last ∧ rows.first ≤ y ∧ y ≤ rows.last <;> simp [h]
  · intro p q hx hy
    simp [hx, hy]

end Sys2Proof.Machine
end

