-- ==== Sys2Proof/Laws/Panel.lean ====
section
/-!
SUPPORT. The panel observation model: what each operation keeps (liveness, the invariant), and what a panel
that is not live does.
-/

namespace Sys2Proof.Machine

/-! ### Blank panels -/

@[simp] theorem Panel.blank_live (l : Bool) : (Panel.blank l).live = l := rfl

@[simp] theorem Panel.blank_fb (l : Bool) : (Panel.blank l).fb = [] := rfl

@[simp] theorem Panel.blank_half (l : Bool) : (Panel.blank l).half = none := rfl

@[simp] theorem Panel.blank_cmd (l : Bool) : (Panel.blank l).cmd = none := rfl

@[simp] theorem Panel.indeterminate_live : Panel.indeterminate.live = false := rfl

@[simp] theorem Panel.indeterminate_contentsUnknown :
    Panel.indeterminate.contentsUnknown = Panel.indeterminate := rfl

@[simp] theorem Panel.afterReset_contentsUnknown : Panel.afterReset.contentsUnknown = Panel.afterReset := rfl

@[simp] theorem Panel.contentsUnknown_live (p : Panel) : p.contentsUnknown.live = p.live := rfl

@[simp] theorem Panel.settle_indeterminate : Panel.indeterminate.settle = Panel.indeterminate := rfl

@[simp] theorem Panel.settle_live (p : Panel) : p.settle.live = p.live := by
  unfold Panel.settle
  split <;> simp_all

theorem Panel.settle_of_live {p : Panel} (h : p.live = true) : p.settle = p := if_pos h

theorem Panel.settle_of_not_live {p : Panel} (h : p.live = false) : p.settle = Panel.indeterminate := by
  simp [Panel.settle, h]

@[simp] theorem Panel.settle_settle (p : Panel) : p.settle.settle = p.settle := by
  cases h : p.live
  · rw [Panel.settle_of_not_live h, Panel.settle_indeterminate]
  · rw [Panel.settle_of_live h, Panel.settle_of_live h]

/-! ### Bytes -/

@[simp] theorem Panel.dropHalf_live (cfg : Params) (p : Panel) : (p.dropHalf cfg).live = p.live := by
  unfold Panel.dropHalf
  repeat' split
  all_goals rfl

theorem Panel.dropHalf_none {cfg : Params} {p : Panel} (h : p.half = none) : p.dropHalf cfg = p := by
  simp [Panel.dropHalf, h]

theorem Panel.dropHalf_other {cfg : Params} {p : Panel} (h : p.cmd ≠ some 0x2C#8) : p.dropHalf cfg = p := by
  simp [Panel.dropHalf, h]

@[simp] theorem Panel.pixel_live (cfg : Params) (v : Half) (p : Panel) : (p.pixel cfg v).live = p.live := by
  unfold Panel.pixel
  repeat' split
  all_goals rfl

@[simp] theorem Panel.readByte_live (cfg : Params) (dc : Level) (b : Byte) (p : Panel) :
    (p.readByte cfg dc b).live = p.live := by
  cases h : p.live <;> cases dc
  · simp [Panel.readByte, Panel.command, h]
  · simp [Panel.readByte, Panel.data, h]
  · simp only [Panel.readByte, Panel.command, h, if_true]
    repeat' split
    all_goals simp [Panel.columnAddressSet, Panel.rowAddressSet, Panel.memoryWrite,
      Panel.memoryAccessControl, Panel.otherCommand, h]
  · simp only [Panel.readByte, Panel.data, h, if_true]
    repeat' split
    all_goals simp only [Panel.contentsUnknown_live, Panel.otherCommand, Panel.streamData,
      Panel.accessControlData, h]
    all_goals split <;> simp [h]

theorem Panel.readByte_of_not_live {cfg : Params} {dc : Level} {b : Byte} {p : Panel}
    (h : p.live = false) : p.readByte cfg dc b = Panel.indeterminate := by
  cases dc <;> simp [Panel.readByte, Panel.command, Panel.data, h]

@[simp] theorem Panel.settle_readByte (cfg : Params) (dc : Level) (b : Byte) (p : Panel) :
    p.settle.readByte cfg dc b = p.readByte cfg dc b := by
  cases h : p.live
  · rw [Panel.settle_of_not_live h, Panel.readByte_of_not_live h, Panel.readByte_of_not_live rfl]
  · rw [Panel.settle_of_live h]

@[simp] theorem Panel.readByte_settle (cfg : Params) (dc : Level) (b : Byte) (p : Panel) :
    (p.readByte cfg dc b).settle = p.readByte cfg dc b := by
  cases h : p.live
  · rw [Panel.readByte_of_not_live h, Panel.settle_indeterminate]
  · rw [Panel.settle_of_live (by simp [h])]

/-! ### Writes -/

@[simp] theorem Panel.readBytes_nil (cfg : Params) (dc : Level) (p : Panel) :
    p.readBytes cfg dc [] = p.settle := rfl

@[simp] theorem Panel.readBytes_cons (cfg : Params) (dc : Level) (b : Byte) (bs : List Byte) (p : Panel) :
    p.readBytes cfg dc (b :: bs) = (p.readByte cfg dc b).readBytes cfg dc bs := by
  simp [Panel.readBytes]

theorem Panel.readBytes_append (cfg : Params) (dc : Level) (bs cs : List Byte) (p : Panel) :
    p.readBytes cfg dc (bs ++ cs) = (p.readBytes cfg dc bs).readBytes cfg dc cs := by
  induction bs generalizing p with
  | nil => cases cs <;> simp
  | cons b bs ih => simp [ih]

@[simp] theorem Panel.readBytes_live (cfg : Params) (dc : Level) (bs : List Byte) (p : Panel) :
    (p.readBytes cfg dc bs).live = p.live := by
  induction bs generalizing p with
  | nil => simp
  | cons b bs ih => simp [ih]

@[simp] theorem Panel.readBytes_settle (cfg : Params) (dc : Level) (bs : List Byte) (p : Panel) :
    (p.readBytes cfg dc bs).settle = p.readBytes cfg dc bs := by
  induction bs generalizing p with
  | nil => simp
  | cons b bs ih => simp [ih]

@[simp] theorem Panel.settle_readBytes (cfg : Params) (dc : Level) (bs : List Byte) (p : Panel) :
    p.settle.readBytes cfg dc bs = p.readBytes cfg dc bs := by
  cases bs <;> simp

/-- A panel that is not live reads nothing (20_memory.md R55). -/
theorem Panel.readBytes_of_not_live {cfg : Params} {dc : Level} {bs : List Byte} {p : Panel}
    (h : p.live = false) : p.readBytes cfg dc bs = Panel.indeterminate := by
  induction bs generalizing p with
  | nil => simp [Panel.settle_of_not_live h]
  | cons b bs ih => simp [Panel.readByte_of_not_live h, ih (p := Panel.indeterminate) rfl]

/-! ### The invariant -/

theorem Panel.blank_Inv (cfg : Params) (l : Bool) : (Panel.blank l).Inv cfg := by
  refine ⟨by simp [Memory.wf], by simp [Panel.pixelsInFrame], by simp, by simp, ?_⟩
  intro h
  simp only [Panel.blank_live] at h
  rw [h, Panel.indeterminate]

theorem Panel.contentsUnknown_Inv (cfg : Params) (p : Panel) : p.contentsUnknown.Inv cfg :=
  Panel.blank_Inv cfg p.live

theorem Panel.settle_of_Inv {cfg : Params} {p : Panel} (h : p.Inv cfg) : p.settle = p := by
  cases hl : p.live
  · rw [Panel.settle_of_not_live hl, h.2.2.2.2 hl]
  · exact Panel.settle_of_live hl

/-- A window of the stream lies in the frame of the panel's byte (20_memory.md R60). -/
theorem Panel.window_spec {cfg : Params} {p : Panel} {w : Window} (h : p.window cfg = some w) :
    p.cols = some w.cols ∧ p.rows = some w.rows ∧ w.cols.first ≤ w.cols.last ∧
      w.rows.first ≤ w.rows.last ∧
      ∃ i, p.rotation = some i ∧ w.cols.last < frameW cfg i ∧ w.rows.last < frameH cfg i := by
  unfold Panel.window at h
  split at h
  next w' i hr hi =>
    split at h
    next hc =>
      cases h
      unfold Panel.ranges at hr
      split at hr
      next c r h1 h2 =>
        split at hr
        next hcr =>
          cases hr
          exact ⟨h1, h2, hcr.1, hcr.2, i, hi, hc⟩
        next => cases hr
      next => cases hr
    next => cases h
  next => cases h

/-- A pixel of the window lies between its corners. -/
theorem Window.position_le {w : Window} {n : Nat} (hc : w.cols.first ≤ w.cols.last)
    (hr : w.rows.first ≤ w.rows.last) (hn : n < w.pixels) :
    w.column n ≤ w.cols.last ∧ w.row n ≤ w.rows.last := by
  have h1 : n % w.rowPixels < w.rowPixels := Nat.mod_lt _ (by simp [Window.rowPixels])
  have h2 : n / w.rowPixels < w.rows.last - w.rows.first + 1 :=
    Nat.div_lt_of_lt_mul hn
  simp only [Window.column, Window.row, Window.rowPixels] at *
  omega

theorem Panel.dropHalf_Inv {cfg : Params} {p : Panel} (h : p.Inv cfg) (hl : p.live = true) :
    (p.dropHalf cfg).Inv cfg ∧ ((p.dropHalf cfg).half = none ∨ (p.dropHalf cfg).cmd ≠ some 0x2C#8) := by
  unfold Panel.dropHalf
  split
  next hc =>
    split
    next w i _ _ =>
      split
      · refine ⟨⟨Memory.forget_wf h.1 _ _, ?_, by simp, ?_, by simp [hl]⟩, .inl rfl⟩
        · intro px hpx
          exact h.2.1 px (List.mem_of_mem_filter hpx)
        · simp [hc.1]
      · exact ⟨⟨h.1, h.2.1, by simp, by simp [hc.1], by simp [hl]⟩, .inl rfl⟩
    next =>
      exact ⟨⟨by simp [Memory.wf], by simp [Panel.pixelsInFrame], by simp, by simp [hc.1], by simp [hl]⟩,
        .inl rfl⟩
  next hc =>
    refine ⟨h, ?_⟩
    by_contra hn
    exact hc (by simpa [not_or] using And.comm.1 (not_or.1 hn))

theorem Panel.command_Inv {cfg : Params} {p : Panel} (h : p.Inv cfg) (c : Byte) :
    (p.command cfg c).Inv cfg := by
  unfold Panel.command
  split
  next hl =>
    obtain ⟨hd, hh⟩ := Panel.dropHalf_Inv h hl
    have hhalf : (p.dropHalf cfg).half = none := by
      rcases hh with hh | hh
      · exact hh
      · by_contra hn
        exact hh (hd.2.2.1 hn)
    split
    · exact ⟨hd.1, hd.2.1, by simp [Panel.columnAddressSet, hhalf], by simp [Panel.columnAddressSet],
        by simp [Panel.columnAddressSet, hl]⟩
    split
    · exact ⟨hd.1, hd.2.1, by simp [Panel.rowAddressSet, hhalf], by simp [Panel.rowAddressSet],
        by simp [Panel.rowAddressSet, hl]⟩
    split
    · exact ⟨hd.1, hd.2.1, by simp [Panel.memoryWrite], by simp [Panel.memoryWrite],
        by simp [Panel.memoryWrite, hl]⟩
    split
    · exact ⟨hd.1, hd.2.1, by simp [Panel.memoryAccessControl, hhalf],
        by simp [Panel.memoryAccessControl], by simp [Panel.memoryAccessControl, hl]⟩
    next hc =>
      have hb := Panel.contentsUnknown_Inv cfg p
      exact ⟨hb.1, hb.2.1, by simp [Panel.otherCommand, Panel.contentsUnknown],
        by simp [Panel.otherCommand, hc], by simp [Panel.otherCommand, hl]⟩
  next => exact Panel.blank_Inv cfg false

theorem Panel.pixel_Inv {cfg : Params} {p : Panel} (h : p.Inv cfg) (hc : p.cmd = some 0x2C#8)
    (hl : p.live = true) (v : Half) : (p.pixel cfg v).Inv cfg := by
  unfold Panel.pixel
  split
  next w hw =>
    obtain ⟨-, -, hcol, hrow, i, hi, hW, hH⟩ := Panel.window_spec hw
    split
    next hn =>
      obtain ⟨hx, hy⟩ := Window.position_le hcol hrow hn
      refine ⟨Memory.write_wf h.1 _ _ _, ?_, by simp, by simp [hc], by simp [hl]⟩
      intro px hpx
      rcases Memory.mem_write hpx with rfl | hpx
      · simp only [Panel.frameHolds, Panel.rotation] at hi ⊢
        simp only [hi, decide_eq_true_eq]
        omega
      · exact h.2.1 px hpx
    next =>
      refine ⟨Memory.forgetWindow_wf h.1 _ _, ?_, by simp, by simp [hc], by simp [hl]⟩
      intro px hpx
      exact h.2.1 px (List.mem_of_mem_filter hpx)
  next => exact Panel.contentsUnknown_Inv cfg p

theorem Panel.data_Inv {cfg : Params} {p : Panel} (h : p.Inv cfg) (b : Byte) :
    (p.data cfg b).Inv cfg := by
  unfold Panel.data
  split
  next hl =>
    split
    next => exact Panel.contentsUnknown_Inv cfg p
    next c hc =>
      split
      next e =>
        subst e
        exact ⟨h.1, h.2.1, by simpa [hc] using h.2.2.1, by simp [hc], by simp [hl]⟩
      split
      next e =>
        subst e
        exact ⟨h.1, h.2.1, by simpa [hc] using h.2.2.1, by simp [hc], by simp [hl]⟩
      split
      next e =>
        subst e
        unfold Panel.streamData
        split
        · exact ⟨h.1, h.2.1, by simp [hc], by simp [hc], by simp [hl]⟩
        · exact Panel.pixel_Inv h hc hl _
      split
      next e =>
        subst e
        have hn : p.half = none := by
          by_contra hn
          have := h.2.2.1 hn
          simp [hc] at this
        unfold Panel.accessControlData
        split
        next => exact ⟨by simp [Memory.wf], by simp [Panel.pixelsInFrame], by simp [hn], by simp, by simp [hl]⟩
        next ha =>
          have hf := h.2.2.2.1 hc ha
          exact ⟨h.1, by simp [Panel.pixelsInFrame, hf], by simp [hn], by simp [hf], by simp [hl]⟩
      next e1 e2 e3 e4 =>
        have hb := Panel.contentsUnknown_Inv cfg p
        exact ⟨hb.1, hb.2.1, by simp [Panel.otherCommand, Panel.contentsUnknown],
          by simp [Panel.otherCommand, e4], by simp [Panel.otherCommand, hl]⟩
  next => exact Panel.blank_Inv cfg false

theorem Panel.readByte_Inv {cfg : Params} {p : Panel} (h : p.Inv cfg) (dc : Level) (b : Byte) :
    (p.readByte cfg dc b).Inv cfg := by
  cases dc
  · exact Panel.command_Inv h b
  · exact Panel.data_Inv h b

/-- The panel's invariant holds whatever bytes it reads. -/
theorem Panel.readBytes_Inv {cfg : Params} {p : Panel} (h : p.Inv cfg) (dc : Level) (bs : List Byte) :
    (p.readBytes cfg dc bs).Inv cfg := by
  induction bs generalizing p with
  | nil => rwa [Panel.readBytes_nil, Panel.settle_of_Inv h]
  | cons b bs ih =>
    rw [Panel.readBytes_cons]
    exact ih (Panel.readByte_Inv h dc b)

end Sys2Proof.Machine
end

