-- ==== Sys2Proof/Laws/State.lean ====
section
/-!
SUPPORT. What each update of the state does to each field, so that no proof unfolds a record update.
-/

namespace Sys2Proof.Machine

/-! ### setErr -/

@[simp] theorem State.setErr_params (s : State) (e : ErrCode) : (s.setErr e).params = s.params := rfl

@[simp] theorem State.setErr_block (s : State) (e : ErrCode) : (s.setErr e).block = { s.block with lastErr := e } := rfl

@[simp] theorem State.setErr_panel (s : State) (e : ErrCode) : (s.setErr e).panel = s.panel := rfl

@[simp] theorem State.setErr_trace (s : State) (e : ErrCode) : (s.setErr e).trace = s.trace := rfl

@[simp] theorem State.setErr_answers (s : State) (e : ErrCode) : (s.setErr e).answers = s.answers := rfl

@[simp] theorem State.setErr_asked (s : State) (e : ErrCode) : (s.setErr e).asked = s.asked := rfl

@[simp] theorem State.setErr_bus (s : State) (e : ErrCode) : (s.setErr e).bus = s.bus := rfl

@[simp] theorem State.setErr_accesses (s : State) (e : ErrCode) : (s.setErr e).accesses = s.accesses := rfl

@[simp] theorem State.setErr_req (s : State) (e : ErrCode) : (s.setErr e).req = s.req := rfl

@[simp] theorem State.setErr_payload (s : State) (e : ErrCode) : (s.setErr e).payload = s.payload := rfl

@[simp] theorem State.setErr_readData (s : State) (e : ErrCode) : (s.setErr e).readData = s.readData := rfl

/-! ### setState -/

@[simp] theorem State.setState_params (s : State) (v : Lifecycle) : (s.setState v).params = s.params := rfl

@[simp] theorem State.setState_block (s : State) (v : Lifecycle) : (s.setState v).block = { s.block with state := v } := rfl

@[simp] theorem State.setState_panel (s : State) (v : Lifecycle) : (s.setState v).panel = s.panel := rfl

@[simp] theorem State.setState_trace (s : State) (v : Lifecycle) : (s.setState v).trace = s.trace := rfl

@[simp] theorem State.setState_answers (s : State) (v : Lifecycle) : (s.setState v).answers = s.answers := rfl

@[simp] theorem State.setState_asked (s : State) (v : Lifecycle) : (s.setState v).asked = s.asked := rfl

@[simp] theorem State.setState_bus (s : State) (v : Lifecycle) : (s.setState v).bus = s.bus := rfl

@[simp] theorem State.setState_accesses (s : State) (v : Lifecycle) : (s.setState v).accesses = s.accesses := rfl

@[simp] theorem State.setState_req (s : State) (v : Lifecycle) : (s.setState v).req = s.req := rfl

@[simp] theorem State.setState_payload (s : State) (v : Lifecycle) : (s.setState v).payload = s.payload := rfl

@[simp] theorem State.setState_readData (s : State) (v : Lifecycle) : (s.setState v).readData = s.readData := rfl

/-! ### setRot -/

@[simp] theorem State.setRot_params (s : State) (r : BitVec 2) : (s.setRot r).params = s.params := rfl

@[simp] theorem State.setRot_block (s : State) (r : BitVec 2) : (s.setRot r).block = { s.block with rot := r } := rfl

@[simp] theorem State.setRot_panel (s : State) (r : BitVec 2) : (s.setRot r).panel = s.panel := rfl

@[simp] theorem State.setRot_trace (s : State) (r : BitVec 2) : (s.setRot r).trace = s.trace := rfl

@[simp] theorem State.setRot_answers (s : State) (r : BitVec 2) : (s.setRot r).answers = s.answers := rfl

@[simp] theorem State.setRot_asked (s : State) (r : BitVec 2) : (s.setRot r).asked = s.asked := rfl

@[simp] theorem State.setRot_bus (s : State) (r : BitVec 2) : (s.setRot r).bus = s.bus := rfl

@[simp] theorem State.setRot_accesses (s : State) (r : BitVec 2) : (s.setRot r).accesses = s.accesses := rfl

@[simp] theorem State.setRot_req (s : State) (r : BitVec 2) : (s.setRot r).req = s.req := rfl

@[simp] theorem State.setRot_payload (s : State) (r : BitVec 2) : (s.setRot r).payload = s.payload := rfl

@[simp] theorem State.setRot_readData (s : State) (r : BitVec 2) : (s.setRot r).readData = s.readData := rfl

/-! ### setShadow -/

@[simp] theorem State.setShadow_params (s : State) (l : LineName) (v : Shadow) : (s.setShadow l v).params = s.params := rfl

@[simp] theorem State.setShadow_block (s : State) (l : LineName) (v : Shadow) : (s.setShadow l v).block = s.block.withShadow l v := rfl

@[simp] theorem State.setShadow_panel (s : State) (l : LineName) (v : Shadow) : (s.setShadow l v).panel = s.panel := rfl

@[simp] theorem State.setShadow_trace (s : State) (l : LineName) (v : Shadow) : (s.setShadow l v).trace = s.trace := rfl

@[simp] theorem State.setShadow_answers (s : State) (l : LineName) (v : Shadow) : (s.setShadow l v).answers = s.answers := rfl

@[simp] theorem State.setShadow_asked (s : State) (l : LineName) (v : Shadow) : (s.setShadow l v).asked = s.asked := rfl

@[simp] theorem State.setShadow_bus (s : State) (l : LineName) (v : Shadow) : (s.setShadow l v).bus = s.bus := rfl

@[simp] theorem State.setShadow_accesses (s : State) (l : LineName) (v : Shadow) : (s.setShadow l v).accesses = s.accesses := rfl

@[simp] theorem State.setShadow_req (s : State) (l : LineName) (v : Shadow) : (s.setShadow l v).req = s.req := rfl

@[simp] theorem State.setShadow_payload (s : State) (l : LineName) (v : Shadow) : (s.setShadow l v).payload = s.payload := rfl

@[simp] theorem State.setShadow_readData (s : State) (l : LineName) (v : Shadow) : (s.setShadow l v).readData = s.readData := rfl

/-! ### setPanel -/

@[simp] theorem State.setPanel_params (s : State) (p : Panel) : (s.setPanel p).params = s.params := rfl

@[simp] theorem State.setPanel_block (s : State) (p : Panel) : (s.setPanel p).block = s.block := rfl

@[simp] theorem State.setPanel_panel (s : State) (p : Panel) : (s.setPanel p).panel = p := rfl

@[simp] theorem State.setPanel_trace (s : State) (p : Panel) : (s.setPanel p).trace = s.trace := rfl

@[simp] theorem State.setPanel_answers (s : State) (p : Panel) : (s.setPanel p).answers = s.answers := rfl

@[simp] theorem State.setPanel_asked (s : State) (p : Panel) : (s.setPanel p).asked = s.asked := rfl

@[simp] theorem State.setPanel_bus (s : State) (p : Panel) : (s.setPanel p).bus = s.bus := rfl

@[simp] theorem State.setPanel_accesses (s : State) (p : Panel) : (s.setPanel p).accesses = s.accesses := rfl

@[simp] theorem State.setPanel_req (s : State) (p : Panel) : (s.setPanel p).req = s.req := rfl

@[simp] theorem State.setPanel_payload (s : State) (p : Panel) : (s.setPanel p).payload = s.payload := rfl

@[simp] theorem State.setPanel_readData (s : State) (p : Panel) : (s.setPanel p).readData = s.readData := rfl

/-! ### emit -/

@[simp] theorem State.emit_params (s : State) (e : Event) : (s.emit e).params = s.params := rfl

@[simp] theorem State.emit_block (s : State) (e : Event) : (s.emit e).block = s.block := rfl

@[simp] theorem State.emit_panel (s : State) (e : Event) : (s.emit e).panel = s.panel := rfl

@[simp] theorem State.emit_trace (s : State) (e : Event) : (s.emit e).trace = s.trace ++ [e] := rfl

@[simp] theorem State.emit_answers (s : State) (e : Event) : (s.emit e).answers = s.answers := rfl

@[simp] theorem State.emit_asked (s : State) (e : Event) : (s.emit e).asked = s.asked := rfl

@[simp] theorem State.emit_bus (s : State) (e : Event) : (s.emit e).bus = s.bus := rfl

@[simp] theorem State.emit_accesses (s : State) (e : Event) : (s.emit e).accesses = s.accesses := rfl

@[simp] theorem State.emit_req (s : State) (e : Event) : (s.emit e).req = s.req := rfl

@[simp] theorem State.emit_payload (s : State) (e : Event) : (s.emit e).payload = s.payload := rfl

@[simp] theorem State.emit_readData (s : State) (e : Event) : (s.emit e).readData = s.readData := rfl

/-! ### useAnswer -/

@[simp] theorem State.useAnswer_params (s : State) : (s.useAnswer).params = s.params := rfl

@[simp] theorem State.useAnswer_block (s : State) : (s.useAnswer).block = s.block := rfl

@[simp] theorem State.useAnswer_panel (s : State) : (s.useAnswer).panel = s.panel := rfl

@[simp] theorem State.useAnswer_trace (s : State) : (s.useAnswer).trace = s.trace := rfl

@[simp] theorem State.useAnswer_answers (s : State) : (s.useAnswer).answers = s.answers.tail := rfl

@[simp] theorem State.useAnswer_asked (s : State) : (s.useAnswer).asked = s.asked + 1 := rfl

@[simp] theorem State.useAnswer_bus (s : State) : (s.useAnswer).bus = s.bus := rfl

@[simp] theorem State.useAnswer_accesses (s : State) : (s.useAnswer).accesses = s.accesses := rfl

@[simp] theorem State.useAnswer_req (s : State) : (s.useAnswer).req = s.req := rfl

@[simp] theorem State.useAnswer_payload (s : State) : (s.useAnswer).payload = s.payload := rfl

@[simp] theorem State.useAnswer_readData (s : State) : (s.useAnswer).readData = s.readData := rfl

/-! ### withShadow -/

@[simp] theorem Block.withShadow_state (b : Block) (l : LineName) (v : Shadow) :
    (b.withShadow l v).state = b.state := by cases l <;> rfl

@[simp] theorem Block.withShadow_rot (b : Block) (l : LineName) (v : Shadow) :
    (b.withShadow l v).rot = b.rot := by cases l <;> rfl

@[simp] theorem Block.withShadow_lastErr (b : Block) (l : LineName) (v : Shadow) :
    (b.withShadow l v).lastErr = b.lastErr := by cases l <;> rfl

@[simp] theorem Block.withShadow_claimed (b : Block) (l : LineName) (v : Shadow) :
    (b.withShadow l v).claimed = b.claimed := by cases l <;> rfl

@[simp] theorem Block.withShadow_dc (b : Block) (v : Shadow) :
    b.withShadow .dc v = { b with lineDC := v } := rfl

@[simp] theorem Block.withShadow_rst (b : Block) (v : Shadow) :
    b.withShadow .rst v = { b with lineRST := v } := rfl

@[simp] theorem Block.withShadow_cs (b : Block) (v : Shadow) :
    b.withShadow .cs v = { b with lineCS := v } := rfl

/-! ### clearSupply -/

@[simp] theorem clearSupply_params (s : State) : (clearSupply s).params = s.params := rfl

@[simp] theorem clearSupply_block (s : State) : (clearSupply s).block = s.block := rfl

@[simp] theorem clearSupply_panel (s : State) : (clearSupply s).panel = s.panel := rfl

@[simp] theorem clearSupply_trace (s : State) : (clearSupply s).trace = s.trace := rfl

@[simp] theorem clearSupply_answers (s : State) : (clearSupply s).answers = s.answers := rfl

@[simp] theorem clearSupply_asked (s : State) : (clearSupply s).asked = s.asked := rfl

@[simp] theorem clearSupply_bus (s : State) : (clearSupply s).bus = s.bus := rfl

@[simp] theorem clearSupply_accesses (s : State) : (clearSupply s).accesses = s.accesses := rfl

@[simp] theorem clearSupply_req (s : State) : (clearSupply s).req = [] := rfl

@[simp] theorem clearSupply_payload (s : State) : (clearSupply s).payload = [] := rfl

@[simp] theorem clearSupply_readData (s : State) : (clearSupply s).readData = s.readData := rfl

end Sys2Proof.Machine
end

