-- ==== Sys2Proof/Laws/Ops.lean ====
section
/-!
SUPPORT. One lemma per shared operation of Machine/Ops.lean that says everything it can do: what a transaction
ends in when the oracle answers OK, what is true of it however it ends, and what a request can end in.
-/

namespace Sys2Proof.Machine

/-! ### The oracle's answers -/

theorem State.answersOk_iff (s : State) (n : Nat) :
    s.answersOk n ↔ ∃ rest, s.answers = List.replicate n .ok ++ rest := by
  constructor
  · intro h
    exact ⟨s.answers.drop n, by rw [← h, List.take_append_drop]⟩
  · rintro ⟨rest, h⟩
    simp [State.answersOk, h]

theorem State.answersOk_of_answers {s t : State} {m n : Nat} (h : s.answersOk (m + n))
    (ht : t.answers = s.answers.drop m) : t.answersOk n := by
  obtain ⟨rest, hr⟩ := (State.answersOk_iff _ _).1 h
  refine (State.answersOk_iff _ _).2 ⟨rest, ?_⟩
  rw [ht, hr, List.replicate_add, List.append_assoc, List.drop_left' (by simp)]

theorem State.answersOk_mono {s : State} {m n : Nat} (h : s.answersOk (m + n)) : s.answersOk m := by
  obtain ⟨rest, hr⟩ := (State.answersOk_iff _ _).1 h
  exact (State.answersOk_iff _ _).2 ⟨List.replicate n .ok ++ rest, by
    rw [hr, List.replicate_add, List.append_assoc]⟩

/-! ### Runs -/

@[simp] theorem Run.andThen_done (s : State) (f : State → Run) : (Run.done s).andThen f = f s := rfl

@[simp] theorem Run.andThen_raised (e : ErrCode) (s : State) (f : State → Run) :
    (Run.raised e s).andThen f = .raised e s := rfl

@[simp] theorem Run.orDeassert_done (s : State) : (Run.done s).orDeassert = .done s := rfl

@[simp] theorem Run.orDeassert_raised (e : ErrCode) (s : State) :
    (Run.raised e s).orDeassert = .raised e (deassertAttempt s) := rfl

@[simp] theorem Run.state_done (s : State) : (Run.done s).state = s := rfl

@[simp] theorem Run.state_raised (e : ErrCode) (s : State) : (Run.raised e s).state = s := rfl

theorem Run.andThen_assoc (r : Run) (f g : State → Run) :
    (r.andThen f).andThen g = r.andThen fun s => (f s).andThen g := by
  cases r <;> rfl

/-- A run that goes on ends well exactly when both its pieces do. -/
theorem Run.andThen_eq_done {r : Run} {f : State → Run} {t : State} (h : r.andThen f = .done t) :
    ∃ s, r = .done s ∧ f s = .done t := by
  cases r with
  | done s => exact ⟨s, rfl, h⟩
  | raised e s => cases h

/-- A run that goes on raises an error in its first piece or in its second. -/
theorem Run.andThen_eq_raised {r : Run} {f : State → Run} {e : ErrCode} {t : State}
    (h : r.andThen f = .raised e t) : r = .raised e t ∨ ∃ s, r = .done s ∧ f s = .raised e t := by
  cases r with
  | done s => exact .inr ⟨s, rfl, h⟩
  | raised e' s => exact .inl h

/-! ### Emitting primitives -/

theorem setLine_ok {l : LineName} {lv : Level} {s : State} (h : s.nextAnswer = .ok) :
    setLine l lv s = .done (lineDriven l lv s) := by
  simp [setLine, h]

theorem setLine_fail {l : LineName} {lv : Level} {s : State} {k : Nat} (h : s.nextAnswer = .fail k) :
    setLine l lv s = .raised .lineControl (lineFailed l lv s) := by
  simp [setLine, h]

theorem write_ok {bs : List Byte} {s : State} (h : s.nextAnswer = .ok) :
    write bs s = .done (bytesSent bs s) := by
  simp [write, h]

theorem write_fail {bs : List Byte} {s : State} {k : Nat} (h : s.nextAnswer = .fail k) :
    write bs s = .raised .transport (bytesCut bs k s) := by
  simp [write, h]

/-- The attempt after a failure drives CS high or leaves it unknown. -/
theorem deassertAttempt_eq (s : State) :
    deassertAttempt s =
      match s.nextAnswer with
      | .ok => lineDriven .cs .high s
      | .fail _ => lineFailed .cs .high s := by
  cases h : s.nextAnswer with
  | ok => simp [deassertAttempt, setLine_ok h, Run.state]
  | fail k => simp [deassertAttempt, setLine_fail h, Run.state]

/-! ### Transactions -/

/-- The state after a transaction all of whose events succeed (40_framer.md R88). -/
def frameDone (dc : Level) (bs : List Byte) (s : State) : State :=
  { s with
    block := { s.block with lineDC := .known dc, lineCS := .known .high }
    panel := s.panel.readBytes s.params dc bs
    trace := s.trace ++ frameEvents dc bs
    answers := s.answers.drop 4
    asked := s.asked + 4 }

/-- Everything a transaction can do: complete, or fail at one of its four events (40_framer.md R88, R89). -/
theorem frame_cases (dc : Level) (bs : List Byte) (s : State) :
    (frame dc bs s = .done (frameDone dc bs s)) ∨
    (frame dc bs s = .raised .lineControl (lineFailed .dc dc s)) ∨
    (frame dc bs s = .raised .lineControl (deassertAttempt (lineFailed .cs .low (lineDriven .dc dc s)))) ∨
    (∃ k, frame dc bs s =
      .raised .transport (deassertAttempt (bytesCut bs k (lineDriven .cs .low (lineDriven .dc dc s))))) ∨
    (frame dc bs s = .raised .lineControl
      (lineFailed .cs .high (bytesSent bs (lineDriven .cs .low (lineDriven .dc dc s))))) := by
  unfold frame
  cases h1 : s.nextAnswer with
  | fail k => simp [setLine_fail h1]
  | ok =>
    rw [setLine_ok h1]
    cases h2 : (lineDriven .dc dc s).nextAnswer with
    | fail k => simp [setLine_fail h2]
    | ok =>
      simp only [Run.andThen_done, setLine_ok h2]
      cases h3 : (lineDriven .cs .low (lineDriven .dc dc s)).nextAnswer with
      | fail k =>
        refine .inr (.inr (.inr (.inl ⟨k, ?_⟩)))
        simp [write_fail h3]
      | ok =>
        simp only [write_ok h3, Run.orDeassert_done, Run.andThen_done]
        cases h4 : (bytesSent bs (lineDriven .cs .low (lineDriven .dc dc s))).nextAnswer with
        | fail k => simp [setLine_fail h4]
        | ok =>
          left
          rw [setLine_ok h4]
          simp [lineDriven, bytesSent, frameDone, State.setShadow, State.setPanel, State.emit,
            State.useAnswer, frameEvents, Panel.seesWrite, Block.withShadow, List.drop_drop,
            ← List.drop_one]

theorem State.nextAnswer_of_answers {s : State} {a : Answer} {rest : List Answer}
    (h : s.answers = a :: rest) : s.nextAnswer = a := by
  simp [State.nextAnswer, h]

@[simp] theorem lineDriven_answers (l : LineName) (lv : Level) (s : State) :
    (lineDriven l lv s).answers = s.answers.tail := rfl

@[simp] theorem lineFailed_answers (l : LineName) (lv : Level) (s : State) :
    (lineFailed l lv s).answers = s.answers.tail := rfl

@[simp] theorem bytesSent_answers (bs : List Byte) (s : State) :
    (bytesSent bs s).answers = s.answers.tail := rfl

@[simp] theorem bytesCut_answers (bs : List Byte) (k : Nat) (s : State) :
    (bytesCut bs k s).answers = s.answers.tail := rfl

/-- With four OK answers a transaction completes. -/
theorem frame_ok {dc : Level} {bs : List Byte} {s : State} (h : s.answersOk 4) :
    frame dc bs s = .done (frameDone dc bs s) := by
  obtain ⟨rest, hr⟩ := (State.answersOk_iff _ _).1 h
  have hr : s.answers = .ok :: .ok :: .ok :: .ok :: rest := by simpa [List.replicate] using hr
  have h1 := State.nextAnswer_of_answers hr
  have h2 : (lineDriven .dc dc s).nextAnswer = .ok :=
    State.nextAnswer_of_answers (rest := .ok :: .ok :: rest) (by simp [hr])
  have h3 : (lineDriven .cs .low (lineDriven .dc dc s)).nextAnswer = .ok :=
    State.nextAnswer_of_answers (rest := .ok :: rest) (by simp [hr])
  have h4 : (bytesSent bs (lineDriven .cs .low (lineDriven .dc dc s))).nextAnswer = .ok :=
    State.nextAnswer_of_answers (rest := rest) (by simp [hr])
  rcases frame_cases dc bs s with h | h | h | ⟨k, h⟩ | h
  · exact h
  all_goals simp [frame, setLine_ok h1, setLine_ok h2, write_ok h3, setLine_ok h4] at h

/-- What no emission changes: the control fields of the block and everything around it. -/
structure Quiet (s t : State) : Prop where
  params : t.params = s.params
  state : t.block.state = s.block.state
  rot : t.block.rot = s.block.rot
  lastErr : t.block.lastErr = s.block.lastErr
  claimed : t.block.claimed = s.block.claimed
  bus : t.bus = s.bus
  accesses : t.accesses = s.accesses
  req : t.req = s.req
  payload : t.payload = s.payload
  readData : t.readData = s.readData

theorem Quiet.refl (s : State) : Quiet s s := ⟨rfl, rfl, rfl, rfl, rfl, rfl, rfl, rfl, rfl, rfl⟩

theorem Quiet.trans {s t u : State} (h : Quiet s t) (h' : Quiet t u) : Quiet s u :=
  ⟨h'.params.trans h.params, h'.state.trans h.state, h'.rot.trans h.rot, h'.lastErr.trans h.lastErr,
    h'.claimed.trans h.claimed, h'.bus.trans h.bus, h'.accesses.trans h.accesses, h'.req.trans h.req,
    h'.payload.trans h.payload, h'.readData.trans h.readData⟩

theorem lineDriven_quiet (l : LineName) (lv : Level) (s : State) : Quiet s (lineDriven l lv s) := by
  constructor <;> simp [lineDriven]

theorem lineFailed_quiet (l : LineName) (lv : Level) (s : State) : Quiet s (lineFailed l lv s) := by
  constructor <;> simp [lineFailed]

theorem bytesSent_quiet (bs : List Byte) (s : State) : Quiet s (bytesSent bs s) := by
  constructor <;> simp [bytesSent]

theorem bytesCut_quiet (bs : List Byte) (k : Nat) (s : State) : Quiet s (bytesCut bs k s) := by
  constructor <;> simp [bytesCut]

theorem delay_quiet (ms : Nat) (s : State) : Quiet s (delay ms s) := by
  constructor <;> simp [delay]

theorem release_quiet (l : LineName) (s : State) : Quiet s (release l s) := by
  constructor <;> simp [release]

theorem deassertAttempt_quiet (s : State) : Quiet s (deassertAttempt s) := by
  rw [deassertAttempt_eq]
  split
  · exact lineDriven_quiet _ _ _
  · exact lineFailed_quiet _ _ _

theorem frameDone_quiet (dc : Level) (bs : List Byte) (s : State) : Quiet s (frameDone dc bs s) :=
  ⟨rfl, rfl, rfl, rfl, rfl, rfl, rfl, rfl, rfl, rfl⟩

/-- An attempt adds its one event, and leaves CS high or unknown and an indeterminate panel so. -/
theorem deassertAttempt_spec (s : State) :
    ∃ ok, (deassertAttempt s).trace = s.trace ++ [.setLine .cs .high ok] ∧
      (deassertAttempt s).block.lineCS ≠ .known .low ∧
      (s.panel = Panel.indeterminate → (deassertAttempt s).panel = Panel.indeterminate) := by
  rw [deassertAttempt_eq]
  split
  · exact ⟨true, by simp [lineDriven], by simp [lineDriven], fun h => by simp [lineDriven, h]⟩
  · exact ⟨false, by simp [lineFailed], by simp [lineFailed], fun _ => rfl⟩

/-- What is true of a piece of pseudocode that only sends transactions and holds, however it ends: it adds
framed events, leaves the control fields alone, never leaves CS asserted, keeps the panel's invariant, and
after an error the panel is indeterminate. -/
structure Sends (s : State) (r : Run) : Prop where
  quiet : Quiet s r.state
  trace : ∃ evs, r.state.trace = s.trace ++ evs ∧ csDiscipline .idle evs = true
  rst : r.state.block.lineRST = s.block.lineRST
  cs : s.block.lineCS ≠ .known .low → r.state.block.lineCS ≠ .known .low
  panelInv : s.panel.Inv s.params → r.state.panel.Inv s.params
  raised : ∀ e t, r = .raised e t → (e = .transport ∨ e = .lineControl) ∧ t.panel = Panel.indeterminate
  done : ∀ t, r = .done t → t.panel.live = s.panel.live

/-- Framed events one after the other are framed. -/
theorem csDiscipline_append {evs evs' : List Event} {ph : CsPhase} (h : csDiscipline ph evs = true)
    (h' : csDiscipline .idle evs' = true) : csDiscipline ph (evs ++ evs') = true := by
  induction evs generalizing ph with
  | nil =>
    cases ph with
    | idle => simpa using h'
    | asserted => simp [csDiscipline] at h
    | written => simp [csDiscipline] at h
  | cons e evs ih =>
    cases ph with
    | idle =>
      cases e with
      | setLine l lv ok =>
        cases l <;> cases lv <;> simp only [csDiscipline, List.cons_append] at h ⊢ <;>
          first | exact ih h | exact absurd h (by simp)
      | write bs k => simp [csDiscipline] at h
      | release l ok =>
        simp only [csDiscipline, List.cons_append] at h ⊢
        exact ih h
      | delay ms =>
        simp only [csDiscipline, List.cons_append] at h ⊢
        exact ih h
    | asserted =>
      cases e with
      | setLine l lv ok =>
        cases l <;> cases lv <;> simp only [csDiscipline, List.cons_append] at h ⊢ <;>
          first | exact ih h | exact absurd h (by simp)
      | write bs k =>
        simp only [csDiscipline, List.cons_append] at h ⊢
        exact ih h
      | release l ok => simp [csDiscipline] at h
      | delay ms => simp [csDiscipline] at h
    | written =>
      cases e with
      | setLine l lv ok =>
        cases l <;> cases lv <;> simp only [csDiscipline, List.cons_append] at h ⊢ <;>
          first | exact ih h | exact absurd h (by simp)
      | write bs k => simp [csDiscipline] at h
      | release l ok => simp [csDiscipline] at h
      | delay ms => simp [csDiscipline] at h

theorem Sends.refl (s : State) : Sends s (.done s) where
  quiet := Quiet.refl s
  trace := ⟨[], by simp [Run.state], rfl⟩
  rst := rfl
  cs := id
  panelInv := id
  raised := by simp
  done := by simp

/-- Pieces that send, one after the other, send. -/
theorem Sends.andThen {s : State} {r : Run} {f : State → Run} (h : Sends s r)
    (hf : ∀ t, r = .done t → Sends t (f t)) : Sends s (r.andThen f) := by
  cases r with
  | raised e t => exact h
  | done t =>
    have h2 := hf t rfl
    obtain ⟨evs, ht, hd⟩ := h.trace
    obtain ⟨evs', ht', hd'⟩ := h2.trace
    simp only [Run.state] at ht
    refine ⟨h.quiet.trans h2.quiet, ⟨evs ++ evs', ?_, csDiscipline_append hd hd'⟩, h2.rst.trans h.rst,
      fun hc => h2.cs (h.cs hc), fun hp => ?_, h2.raised, fun u hu => (h2.done u hu).trans (h.done t rfl)⟩
    · rw [Run.andThen_done, ht', ht, List.append_assoc]
    · have hpar : t.params = s.params := h.quiet.params
      rw [← hpar]
      exact h2.panelInv (by rw [hpar]; exact h.panelInv hp)

/-- A raised error with its trace, seen as a piece that sends. -/
theorem Sends.ofRaised {s t : State} {e : ErrCode} {evs : List Event} (hq : Quiet s t)
    (he : e = .transport ∨ e = .lineControl) (ht : t.trace = s.trace ++ evs)
    (hd : csDiscipline .idle evs = true) (hrst : t.block.lineRST = s.block.lineRST)
    (hcs : s.block.lineCS ≠ .known .low → t.block.lineCS ≠ .known .low)
    (hp : t.panel = Panel.indeterminate) : Sends s (.raised e t) where
  quiet := hq
  trace := ⟨evs, ht, hd⟩
  rst := hrst
  cs := hcs
  panelInv := fun _ => by
    simp only [Run.state, hp]
    exact Panel.blank_Inv _ _
  raised := by
    rintro e' t' ⟨⟩
    exact ⟨he, hp⟩
  done := by simp

theorem deassertAttempt_rst (s : State) : (deassertAttempt s).block.lineRST = s.block.lineRST := by
  rw [deassertAttempt_eq]
  split <;> simp [lineDriven, lineFailed]

/-- A transaction sends. -/
theorem frame_sends (dc : Level) (bs : List Byte) (s : State) : Sends s (frame dc bs s) := by
  rcases frame_cases dc bs s with h | h | h | ⟨k, h⟩ | h <;> rw [h]
  · exact ⟨frameDone_quiet dc bs s, ⟨frameEvents dc bs, rfl, by cases dc <;> rfl⟩, rfl,
      by simp [Run.state, frameDone], fun hp => Panel.readBytes_Inv hp dc bs, by simp, by simp [frameDone]⟩
  · exact Sends.ofRaised (evs := [.setLine .dc dc false]) (lineFailed_quiet _ _ _) (.inr rfl) rfl
      (by cases dc <;> rfl) rfl (fun hc => hc) rfl
  · obtain ⟨ok, ht, hc, hp⟩ := deassertAttempt_spec (lineFailed .cs .low (lineDriven .dc dc s))
    exact Sends.ofRaised (evs := [.setLine .dc dc true, .setLine .cs .low false, .setLine .cs .high ok])
      (((lineDriven_quiet _ _ _).trans (lineFailed_quiet _ _ _)).trans (deassertAttempt_quiet _)) (.inr rfl)
      (by rw [ht]; simp [lineDriven, lineFailed]) (by cases dc <;> rfl)
      (by rw [deassertAttempt_rst]; rfl) (fun _ => hc) (hp rfl)
  · obtain ⟨ok, ht, hc, hp⟩ :=
      deassertAttempt_spec (bytesCut bs k (lineDriven .cs .low (lineDriven .dc dc s)))
    exact Sends.ofRaised (evs := [.setLine .dc dc true, .setLine .cs .low true,
        .write bs (some (min k bs.length)), .setLine .cs .high ok])
      ((((lineDriven_quiet _ _ _).trans (lineDriven_quiet _ _ _)).trans (bytesCut_quiet _ _ _)).trans
        (deassertAttempt_quiet _)) (.inl rfl)
      (by rw [ht]; simp [lineDriven, bytesCut]) (by cases dc <;> rfl)
      (by rw [deassertAttempt_rst]; rfl) (fun _ => hc) (hp rfl)
  · exact Sends.ofRaised (evs := [.setLine .dc dc true, .setLine .cs .low true, .write bs none,
        .setLine .cs .high false])
      ((((lineDriven_quiet _ _ _).trans (lineDriven_quiet _ _ _)).trans (bytesSent_quiet _ _)).trans
        (lineFailed_quiet _ _ _)) (.inr rfl)
      (by simp [lineDriven, bytesSent, lineFailed]) (by cases dc <;> rfl) rfl
      (fun _ => by simp [lineFailed]) rfl

/-- Data transactions one after the other send. -/
theorem dataFrames_sends (bss : List (List Byte)) (s : State) : Sends s (dataFrames bss s) := by
  induction bss generalizing s with
  | nil => exact Sends.refl s
  | cons bs rest ih => exact (frame_sends .high bs s).andThen fun t _ => ih t

/-! ### Requests -/

/-- Everything a request can end in: not permitted, out of bounds, or its pseudocode's end. -/
theorem request_cases (permitted : Lifecycle → Bool) (inBounds : State → Bool) (body : State → Run)
    (s : State) :
    (permitted s.block.state = false ∧ request permitted inBounds body s = s.setErr .notPermitted) ∨
    (permitted s.block.state = true ∧ inBounds s = false ∧
      request permitted inBounds body s = s.setErr .bounds) ∨
    (permitted s.block.state = true ∧ inBounds s = true ∧
      request permitted inBounds body s = endRequest s (finish (body s))) := by
  unfold request
  split
  · split
    · exact .inr (.inr ⟨‹_›, ‹_›, rfl⟩)
    · exact .inr (.inl ⟨‹_›, Bool.eq_false_iff.2 ‹_›, rfl⟩)
  · exact .inl ⟨Bool.eq_false_iff.2 ‹_›, rfl⟩

@[simp] theorem endRequest_block (s t : State) : (endRequest s t).block = t.block := by
  unfold endRequest
  split <;> rfl

@[simp] theorem endRequest_params (s t : State) : (endRequest s t).params = t.params := by
  unfold endRequest
  split <;> rfl

@[simp] theorem endRequest_trace (s t : State) : (endRequest s t).trace = t.trace := by
  unfold endRequest
  split <;> rfl

@[simp] theorem endRequest_answers (s t : State) : (endRequest s t).answers = t.answers := by
  unfold endRequest
  split <;> rfl

@[simp] theorem endRequest_asked (s t : State) : (endRequest s t).asked = t.asked := by
  unfold endRequest
  split <;> rfl

@[simp] theorem endRequest_bus (s t : State) : (endRequest s t).bus = t.bus := by
  unfold endRequest
  split <;> rfl

@[simp] theorem endRequest_accesses (s t : State) : (endRequest s t).accesses = t.accesses := by
  unfold endRequest
  split <;> rfl

@[simp] theorem endRequest_req (s t : State) : (endRequest s t).req = t.req := by
  unfold endRequest
  split <;> rfl

@[simp] theorem endRequest_payload (s t : State) : (endRequest s t).payload = t.payload := by
  unfold endRequest
  split <;> rfl

@[simp] theorem endRequest_readData (s t : State) : (endRequest s t).readData = t.readData := by
  unfold endRequest
  split <;> rfl

/-- The panel at the end of a request: as it was left, or with contents unknown (20_memory.md R56). -/
theorem endRequest_panel (s t : State) :
    (endRequest s t).panel =
      if s.block.state = .ready ∨ t.trace.length = s.trace.length then t.panel
      else t.panel.contentsUnknown := by
  unfold endRequest
  split <;> rfl

@[simp] theorem endRequest_panel_live (s t : State) : (endRequest s t).panel.live = t.panel.live := by
  rw [endRequest_panel]
  split <;> rfl

end Sys2Proof.Machine
end

