-- ==== Sys2Proof/Laws/Requests.lean ====
section
/-!
SUPPORT. One lemma per piece of pseudocode of the requests (Machine/Controller.lean, Machine/PixelFill.lean):
what it ends in when the oracle answers OK, and what is true of it however it ends.
-/

namespace Sys2Proof.Machine

/-! ### Window sequences -/

/-- The state after a window sequence all of whose events succeed (41_controller.md R105). -/
def windowDone (x0 y0 x1 y1 : Nat) (s : State) : State :=
  { s with
    block := { s.block with lineDC := .known .low, lineCS := .known .high }
    panel := s.panel.readWindow s.params x0 y0 x1 y1
    trace := s.trace ++ windowEvents x0 y0 x1 y1
    answers := s.answers.drop 20
    asked := s.asked + 20 }

theorem windowSeq_ok {x0 y0 x1 y1 : Nat} {s : State} (h : s.answersOk 20) :
    windowSeq x0 y0 x1 y1 s = .done (windowDone x0 y0 x1 y1 s) := by
  have h1 : s.answersOk 4 := State.answersOk_mono (n := 16) h
  unfold windowSeq
  rw [frame_ok h1, Run.andThen_done]
  have h2 : (frameDone .low [0x2A#8] s).answersOk 16 := State.answersOk_of_answers (m := 4) h rfl
  rw [frame_ok (State.answersOk_mono (n := 12) h2), Run.andThen_done]
  have h3 : (frameDone .high (coordinateBytes x0 x1) (frameDone .low [0x2A#8] s)).answersOk 12 :=
    State.answersOk_of_answers (m := 4) h2 rfl
  rw [frame_ok (State.answersOk_mono (n := 8) h3), Run.andThen_done]
  have h4 : (frameDone .low [0x2B#8] (frameDone .high (coordinateBytes x0 x1)
      (frameDone .low [0x2A#8] s))).answersOk 8 := State.answersOk_of_answers (m := 4) h3 rfl
  rw [frame_ok (State.answersOk_mono (n := 4) h4), Run.andThen_done]
  rw [frame_ok (State.answersOk_of_answers (m := 4) h4 rfl)]
  simp [frameDone, windowDone, windowEvents, frameEvents, cmdEvents, dataEvents, Panel.readWindow,
    List.drop_drop]

theorem windowSeq_sends (x0 y0 x1 y1 : Nat) (s : State) : Sends s (windowSeq x0 y0 x1 y1 s) :=
  (frame_sends _ _ _).andThen fun _ _ => (frame_sends _ _ _).andThen fun _ _ =>
    (frame_sends _ _ _).andThen fun _ _ => (frame_sends _ _ _).andThen fun _ _ => frame_sends _ _ _

/-! ### Data transactions and fills -/

/-- The state after data transactions all of whose events succeed. -/
def dataDone (bss : List (List Byte)) (s : State) : State :=
  { s with
    block := if bss = [] then s.block
      else { s.block with lineDC := .known .high, lineCS := .known .high }
    panel := s.panel.readChunks s.params bss
    trace := s.trace ++ bss.flatMap dataEvents
    answers := s.answers.drop (4 * bss.length)
    asked := s.asked + 4 * bss.length }

theorem dataFrames_ok {bss : List (List Byte)} {s : State} (h : s.answersOk (4 * bss.length)) :
    dataFrames bss s = .done (dataDone bss s) := by
  induction bss generalizing s with
  | nil => simp [dataFrames, dataDone, Panel.readChunks]
  | cons bs rest ih =>
    have h : s.answersOk (4 + 4 * rest.length) := by
      rw [List.length_cons, Nat.mul_add] at h
      rwa [Nat.add_comm]
    rw [dataFrames, frame_ok (State.answersOk_mono h), Run.andThen_done,
      ih (State.answersOk_of_answers (m := 4) h rfl)]
    simp only [dataDone, frameDone, Run.done.injEq, State.mk.injEq, List.drop_drop]
    refine ⟨trivial, ?_, rfl, ?_, ?_, ?_, trivial, trivial, trivial, trivial, trivial⟩
    · split <;> simp
    · simp [frameEvents, dataEvents]
    · congr 1
      simp
      omega
    · simp
      omega

theorem fillSeq_ok {r : Rect} {c : Half} {s : State}
    (h : s.answersOk (20 + 4 * (pixelChunks s.params.chunkPixels (r.w * r.h) c).length)) :
    fillSeq r c s = .done (dataDone (pixelChunks s.params.chunkPixels (r.w * r.h) c)
      (windowDone r.x r.y (r.x + r.w - 1) (r.y + r.h - 1) s)) := by
  unfold fillSeq
  rw [windowSeq_ok (State.answersOk_mono h), Run.andThen_done,
    dataFrames_ok (State.answersOk_of_answers (m := 20) h rfl)]

theorem fillSeq_sends (r : Rect) (c : Half) (s : State) : Sends s (fillSeq r c s) :=
  (windowSeq_sends _ _ _ _ _).andThen fun _ _ => dataFrames_sends _ _

/-! ### The initialization table -/

theorem delay_sends (ms : Nat) (s : State) : Sends s (.done (delay ms s)) where
  quiet := delay_quiet ms s
  trace := ⟨[.delay ms], rfl, rfl⟩
  rst := rfl
  cs := id
  panelInv := fun h => by
    have : s.panel.settle.Inv s.params := by rwa [Panel.settle_of_Inv h]
    exact this
  raised := by simp
  done := by
    rintro t ⟨⟩
    simp [delay]

theorem emitEntry_sends (e : InitEntry) (s : State) : Sends s (emitEntry e s) := by
  cases e with
  | wait ms => exact delay_sends ms s
  | cmd c ps =>
    refine (frame_sends .low [c] s).andThen fun t _ => ?_
    split
    · exact Sends.refl t
    · exact frame_sends _ _ _

theorem emitTable_sends (es : List InitEntry) (s : State) : Sends s (emitTable es s) := by
  induction es generalizing s with
  | nil => exact Sends.refl s
  | cons e es ih => exact (emitEntry_sends e s).andThen fun t _ => ih t

theorem answersOf_append (evs evs' : List Event) :
    answersOf (evs ++ evs') = answersOf evs + answersOf evs' := by
  simp [answersOf]

/-- The table's roles hold a display-on entry, the last that 41_controller.md R97 clause 1 names. -/
theorem displayOn_mem_of_rolesInOrder {roles : List InitRole} (h : rolesInOrder roles = true) :
    .displayOn ∈ roles := by
  simp only [rolesInOrder, List.all_cons, Bool.and_eq_true, List.isSublist_iff_sublist] at h
  obtain ⟨r, hr, he⟩ := List.mem_map.1 (h.1.subset (a := .displayOn) (by simp [requiredRoles]))
  cases r with
  | displayOn => exact hr
  | registers kinds =>
    simp only [InitRole.forKind] at he
    split at he <;> cases he
  | _ => cases he

/-- A role that R97 names is on a command. -/
theorem cmd_mem_of_rolesFit {role : InitRole} (hne : role ≠ .other) {table : List InitEntry}
    {roles : List InitRole} (hf : rolesFit (table.zip roles) = true) (hl : table.length = roles.length)
    (hm : role ∈ roles) : ∃ c ps, .cmd c ps ∈ table := by
  induction roles generalizing table with
  | nil => cases hm
  | cons r roles ih =>
    cases table with
    | nil => cases hl
    | cons e table =>
      cases e with
      | cmd c ps => exact ⟨c, ps, List.mem_cons_self⟩
      | wait ms =>
        simp only [List.zip_cons_cons, rolesFit, Bool.and_eq_true, beq_iff_eq] at hf
        have hm' : role ∈ roles := (List.mem_cons.1 hm).resolve_left fun h => hne (h.trans hf.1)
        obtain ⟨c, ps, h⟩ := ih hf.2 (Nat.succ.inj hl) hm'
        exact ⟨c, ps, List.mem_cons_of_mem _ h⟩

/-- INITIALIZE sends at least one command. -/
theorem initTable_cmd_mem {p : Params} (h : p.Valid) : ∃ c ps, .cmd c ps ∈ p.initTable := by
  have ht := h.2.2.2.2.2.2
  simp only [initTableOk, Bool.and_eq_true, beq_iff_eq] at ht
  exact cmd_mem_of_rolesFit (by decide) ht.1.1.2 ht.1.1.1.1 (displayOn_mem_of_rolesInOrder ht.1.1.1.2)

/-- With OK answers an entry emits its events. -/
theorem emitEntry_ok {e : InitEntry} {s : State} (h : s.answersOk (answersOf (entryEvents e))) :
    ∃ t, emitEntry e s = .done t ∧ t.trace = s.trace ++ entryEvents e ∧
      t.answers = s.answers.drop (answersOf (entryEvents e)) ∧
      t.asked = s.asked + answersOf (entryEvents e) := by
  cases e with
  | wait ms => exact ⟨_, rfl, rfl, rfl, rfl⟩
  | cmd c ps =>
    cases ps with
    | nil =>
      have h : s.answersOk 4 := h
      exact ⟨frameDone .low [c] s, by simp [emitEntry, frame_ok h], rfl, rfl, rfl⟩
    | cons p ps =>
      have h : s.answersOk (4 + 4) := h
      have h' : (frameDone .low [c] s).answersOk 4 := State.answersOk_of_answers h rfl
      refine ⟨frameDone .high (p :: ps) (frameDone .low [c] s),
        by simp [emitEntry, frame_ok (State.answersOk_mono h), frame_ok h'], ?_, ?_, ?_⟩
      · simp [frameDone, frameEvents, entryEvents, cmdEvents, dataEvents]
      · simp only [frameDone, List.drop_drop]
        rfl
      · simp only [frameDone, Nat.add_assoc]
        rfl

/-- With OK answers the table's entries emit their events, in order (41_controller.md R98). -/
theorem emitTable_ok {es : List InitEntry} {s : State}
    (h : s.answersOk (answersOf (es.flatMap entryEvents))) :
    ∃ t, emitTable es s = .done t ∧ t.trace = s.trace ++ es.flatMap entryEvents ∧
      t.answers = s.answers.drop (answersOf (es.flatMap entryEvents)) ∧
      t.asked = s.asked + answersOf (es.flatMap entryEvents) := by
  induction es generalizing s with
  | nil => exact ⟨s, rfl, by simp, by simp [answersOf], by simp [answersOf]⟩
  | cons e es ih =>
    rw [List.flatMap_cons, answersOf_append] at h ⊢
    obtain ⟨t, a1, a2, a3, a4⟩ := emitEntry_ok (State.answersOk_mono h)
    obtain ⟨u, b1, b2, b3, b4⟩ := ih (State.answersOk_of_answers h a3)
    refine ⟨u, by rw [emitTable, a1, Run.andThen_done, b1], by rw [b2, a2, List.append_assoc], ?_, ?_⟩
    · rw [b3, a3, List.drop_drop]
    · rw [b4, a4, Nat.add_assoc]

/-! ### The reset pulse -/

/-- What is true of the reset pulse however it ends: at its end RST is high; on an error it is unknown and
the panel is indeterminate (41_controller.md R93). -/
theorem resetPulse_cases (s : State) :
    ∃ evs, (resetPulse s).state.trace = s.trace ++ evs ∧ csDiscipline .idle evs = true ∧
      Quiet s (resetPulse s).state ∧
      (resetPulse s).state.block.lineDC = s.block.lineDC ∧
      (resetPulse s).state.block.lineCS = s.block.lineCS ∧
      ((∃ t, resetPulse s = .done t ∧ evs = pulseEvents ∧ t.block.lineRST = .known .high) ∨
        ∃ t, resetPulse s = .raised .lineControl t ∧ t.block.lineRST = .unknown ∧
          t.panel = Panel.indeterminate) := by
  unfold resetPulse
  cases h1 : s.nextAnswer with
  | fail k =>
    rw [setLine_fail h1]
    exact ⟨_, rfl, rfl, lineFailed_quiet _ _ _, rfl, rfl, .inr ⟨_, rfl, rfl, rfl⟩⟩
  | ok =>
    rw [setLine_ok h1, Run.andThen_done]
    generalize hs1 : delay tRstHigh1 (lineDriven .rst .high s) = s1
    have q1 : Quiet s s1 := hs1 ▸ (lineDriven_quiet _ _ _).trans (delay_quiet _ _)
    have t1 : s1.trace = s.trace ++ [.setLine .rst .high true, .delay 50] := by
      simp [← hs1, delay, lineDriven, tRstHigh1]
    have b1 : s1.block.lineDC = s.block.lineDC ∧ s1.block.lineCS = s.block.lineCS := by
      simp [← hs1, delay, lineDriven]
    cases h2 : s1.nextAnswer with
    | fail k =>
      rw [setLine_fail h2]
      refine ⟨[.setLine .rst .high true, .delay 50, .setLine .rst .low false], ?_, rfl,
        q1.trans (lineFailed_quiet _ _ _), b1.1, b1.2, .inr ⟨_, rfl, rfl, rfl⟩⟩
      simp [Run.state, lineFailed, t1]
    | ok =>
      rw [setLine_ok h2, Run.andThen_done]
      generalize hs2 : delay tRstLow (lineDriven .rst .low s1) = s2
      have q2 : Quiet s s2 := q1.trans (hs2 ▸ (lineDriven_quiet _ _ _).trans (delay_quiet _ _))
      have t2 : s2.trace =
          s.trace ++ [.setLine .rst .high true, .delay 50, .setLine .rst .low true, .delay 100] := by
        simp [← hs2, delay, lineDriven, tRstLow, t1]
      have b2 : s2.block.lineDC = s.block.lineDC ∧ s2.block.lineCS = s.block.lineCS := by
        simpa [← hs2, delay, lineDriven] using b1
      cases h3 : s2.nextAnswer with
      | fail k =>
        rw [setLine_fail h3]
        refine ⟨[.setLine .rst .high true, .delay 50, .setLine .rst .low true, .delay 100,
          .setLine .rst .high false], ?_, rfl, q2.trans (lineFailed_quiet _ _ _), b2.1, b2.2,
          .inr ⟨_, rfl, rfl, rfl⟩⟩
        simp [Run.state, lineFailed, t2]
      | ok =>
        rw [setLine_ok h3, Run.andThen_done]
        refine ⟨pulseEvents, ?_, rfl, q2.trans ((lineDriven_quiet _ _ _).trans (delay_quiet _ _)), b2.1,
          b2.2, .inl ⟨_, rfl, rfl, rfl⟩⟩
        simp [Run.state, delay, lineDriven, t2, pulseEvents, tRstHigh2]

/-! ### The release loop -/

/-- Everything CLOSE's loop can do: the three releases in order, whatever the oracle answers, and the first
failure is the error (41_controller.md R108). -/
theorem releaseAll_spec (s : State) :
    ∃ a b c, (releaseAll [.dc, .rst, .cs] .none s).2.trace =
        s.trace ++ [.release .dc (Answer.isOk a), .release .rst (Answer.isOk b), .release .cs (Answer.isOk c)] ∧
      (releaseAll [.dc, .rst, .cs] .none s).1 =
        (if Answer.isOk a ∧ Answer.isOk b ∧ Answer.isOk c then .none else .lineControl) ∧
      (releaseAll [.dc, .rst, .cs] .none s).2.block =
        { s.block with lineDC := .unknown, lineRST := .unknown, lineCS := .unknown } ∧
      (releaseAll [.dc, .rst, .cs] .none s).2.panel = Panel.indeterminate ∧
      Carried 3 s (releaseAll [.dc, .rst, .cs] .none s).2 ∧
      ∀ a' b' c' rest, s.answers = a' :: b' :: c' :: rest → a = a' ∧ b = b' ∧ c = c' := by
  refine ⟨s.nextAnswer, (release .dc s).nextAnswer, (release .rst (release .dc s)).nextAnswer, ?_, ?_, ?_,
    ?_, ?_, ?_⟩
  · simp [releaseAll, release]
  · simp only [releaseAll]
    cases Answer.isOk s.nextAnswer <;> cases Answer.isOk (release .dc s).nextAnswer <;>
      cases Answer.isOk (release .rst (release .dc s)).nextAnswer <;> simp
  · simp [releaseAll, release, Block.withShadow]
  · simp [releaseAll, release]
  · simp [Carried, releaseAll, release, State.useAnswer, ← List.drop_one, List.drop_drop]
  · intro a b c rest h
    refine ⟨State.nextAnswer_of_answers h, State.nextAnswer_of_answers (rest := c :: rest) ?_,
      State.nextAnswer_of_answers (rest := rest) ?_⟩ <;> simp [release, h]

end Sys2Proof.Machine
end

