-- ==== Sys2Proof/Laws/Exec.lean ====
section
/-!
SUPPORT. What a host request can end in, over all requests: rejected, failed, completed, or CLOSE.
-/

namespace Sys2Proof.Machine

/-- What no request changes: the parameters, the bus and the host's streams. -/
structure Around (s t : State) : Prop where
  params : t.params = s.params
  bus : t.bus = s.bus
  accesses : t.accesses = s.accesses
  req : t.req = s.req
  payload : t.payload = s.payload
  readData : t.readData = s.readData

/-- The state a completed request other than CLOSE ends in. -/
def stateAfter (s : State) : Instr → Lifecycle
  | .reset => .resetting
  | .initializePanel => .ready
  | _ => s.block.state

/-- The rotation a completed request leaves. -/
def rotAfter (s : State) : Instr → BitVec 2
  | .setRotation r => rotationIndex r
  | _ => s.block.rot

/-- A request that its checks let run and that failed (60_exceptions.md R134). -/
structure Failed (s t : State) : Prop where
  around : Around s t
  err : t.block.lastErr = .transport ∨ t.block.lastErr = .lineControl
  state : t.block.state = .faulted
  rot : t.block.rot = s.block.rot
  claimed : t.block.claimed = s.block.claimed
  cs : s.block.lineCS ≠ .known .low → t.block.lineCS ≠ .known .low
  panel : t.panel = Panel.indeterminate

/-- A request other than CLOSE that its checks let run and that completed. -/
structure Completed (i : Instr) (s t : State) : Prop where
  around : Around s t
  err : t.block.lastErr = .none
  state : t.block.state = stateAfter s i
  rot : t.block.rot = rotAfter s i
  claimed : t.block.claimed = s.block.claimed

/-- The bounds check of a request (60_exceptions.md R130). -/
def boundsOk (s : State) : Instr → Prop
  | .setAddressWindow x0 y0 x1 y1 => windowInFrame x0 y0 x1 y1 s = true
  | _ => True

/-- How a piece of pseudocode ends, for a request that gets to run it. -/
def BodyEnds (i : Instr) (s : State) : Run → Prop
  | .done t => Around s t ∧ t.block.state = stateAfter s i ∧ t.block.rot = rotAfter s i ∧
      t.block.claimed = s.block.claimed
  | .raised e t => Around s t ∧ (e = .transport ∨ e = .lineControl) ∧ t.block.rot = s.block.rot ∧
      t.block.claimed = s.block.claimed ∧
      (s.block.lineCS ≠ .known .low → t.block.lineCS ≠ .known .low) ∧ t.panel = Panel.indeterminate

theorem Quiet.around {s t : State} (h : Quiet s t) : Around s t :=
  ⟨h.params, h.bus, h.accesses, h.req, h.payload, h.readData⟩

/-- A piece that sends ends as a body, for a request that writes neither S.STATE nor S.ROT. -/
theorem Sends.bodyEnds {i : Instr} {s : State} {r : Run} (h : Sends s r)
    (hst : stateAfter s i = s.block.state) (hrot : rotAfter s i = s.block.rot) : BodyEnds i s r := by
  have hq := h.quiet
  have hc := h.cs
  cases r with
  | done t => exact ⟨hq.around, hq.state.trans hst.symm, hq.rot.trans hrot.symm, hq.claimed⟩
  | raised e t =>
    obtain ⟨he, hp⟩ := h.raised e t rfl
    exact ⟨hq.around, he, hq.rot, hq.claimed, hc, hp⟩

theorem resetBody_ends (s : State) : BodyEnds .reset s (resetBody s) := by
  obtain ⟨evs, -, -, hq, -, hcs, hh⟩ := resetPulse_cases (s.setState .resetting)
  rcases hh with ⟨t, hp, -, -⟩ | ⟨t, hp, -, hpan⟩ <;> rw [hp] at hq hcs <;> rw [resetBody, hp]
  · exact ⟨⟨hq.params, hq.bus, hq.accesses, hq.req, hq.payload, hq.readData⟩, hq.state, hq.rot, hq.claimed⟩
  · exact ⟨⟨hq.params, hq.bus, hq.accesses, hq.req, hq.payload, hq.readData⟩, .inr rfl,
      hq.rot, hq.claimed, fun h => by rw [Run.state_raised] at hcs; rwa [hcs], hpan⟩

theorem initializeBody_ends (s : State) : BodyEnds .initializePanel s (initializeBody s) := by
  have h := emitTable_sends s.params.initTable (s.setState .configuring)
  have hq := h.quiet
  have hc := h.cs
  unfold initializeBody
  cases hr : emitTable s.params.initTable (s.setState .configuring) with
  | done t =>
    rw [hr] at hq
    exact ⟨⟨hq.params, hq.bus, hq.accesses, hq.req, hq.payload, hq.readData⟩, rfl, hq.rot, hq.claimed⟩
  | raised e t =>
    obtain ⟨he, hp⟩ := h.raised e t hr
    rw [hr] at hq hc
    exact ⟨⟨hq.params, hq.bus, hq.accesses, hq.req, hq.payload, hq.readData⟩, he, hq.rot, hq.claimed, hc, hp⟩

theorem setRotationBody_ends (r : Word) (s : State) :
    BodyEnds (.setRotation r) s (setRotationBody (rotationIndex r) s) := by
  have h : Sends s ((frame .low [0x36#8] s).andThen (frame .high [madctlByte (rotationIndex r)])) :=
    (frame_sends _ _ _).andThen fun _ _ => frame_sends _ _ _
  have e : setRotationBody (rotationIndex r) s =
      ((frame .low [0x36#8] s).andThen (frame .high [madctlByte (rotationIndex r)])).andThen
        fun u => .done (u.setRot (rotationIndex r)) := by
    rw [Run.andThen_assoc]
    rfl
  rw [e]
  revert h
  cases (frame .low [0x36#8] s).andThen (frame .high [madctlByte (rotationIndex r)]) with
  | done t =>
    intro h
    have hq := h.quiet
    exact ⟨⟨hq.params, hq.bus, hq.accesses, hq.req, hq.payload, hq.readData⟩, hq.state, rfl, hq.claimed⟩
  | raised e t =>
    intro h
    obtain ⟨he, hp⟩ := h.raised e t rfl
    exact ⟨h.quiet.around, he, h.quiet.rot, h.quiet.claimed, h.cs, hp⟩

theorem fillRegionBody_sends (x y w h : Int) (c : Half) (s : State) :
    Sends s (fillRegionBody x y w h c s) := by
  unfold fillRegionBody
  split
  · exact Sends.refl s
  · exact fillSeq_sends _ _ _

theorem setPixelBody_sends (x y : Int) (c : Half) (s : State) : Sends s (setPixelBody x y c s) := by
  unfold setPixelBody
  split
  · exact (windowSeq_sends _ _ _ _ _).andThen fun _ _ => frame_sends _ _ _
  · exact Sends.refl s

/-- What a request can end in: not permitted, out of bounds, failed, completed. -/
inductive RequestEnds (i : Instr) (permitted : Prop) (inBounds : Prop) (s : State) : State → Prop where
  | notPermitted (h : ¬permitted) : RequestEnds i permitted inBounds s (s.setErr .notPermitted)
  | outOfBounds (h : permitted) (h' : ¬inBounds) : RequestEnds i permitted inBounds s (s.setErr .bounds)
  | failed (t : State) (h : permitted) (h' : Failed s t) : RequestEnds i permitted inBounds s t
  | completed (t : State) (h : permitted) (h' : Completed i s t) : RequestEnds i permitted inBounds s t

theorem request_ends {i : Instr} {permitted : Lifecycle → Bool} {inBounds : State → Bool}
    {body : State → Run} {s : State} (hb : BodyEnds i s (body s)) :
    RequestEnds i (permitted s.block.state = true) (inBounds s = true) s
      (request permitted inBounds body s) := by
  rcases request_cases permitted inBounds body s with ⟨hp, h⟩ | ⟨hp, hi, h⟩ | ⟨hp, hi, h⟩ <;> rw [h]
  · exact .notPermitted (by simp [hp])
  · exact .outOfBounds hp (by simp [hi])
  · revert hb
    cases body s with
    | done t =>
      rintro ⟨ha, hst, hrot, hcl⟩
      refine .completed _ hp ⟨⟨?_, ?_, ?_, ?_, ?_, ?_⟩, ?_, ?_, ?_, ?_⟩ <;>
        simp [finish, ha.params, ha.bus, ha.accesses, ha.req, ha.payload, ha.readData, hst, hrot, hcl]
    | raised e t =>
      rintro ⟨ha, he, hrot, hcl, hcs, hpan⟩
      refine .failed _ hp ⟨⟨?_, ?_, ?_, ?_, ?_, ?_⟩, ?_, ?_, ?_, ?_, ?_, ?_⟩
      all_goals simp only [endRequest_params, endRequest_bus, endRequest_accesses, endRequest_req,
        endRequest_payload, endRequest_readData, endRequest_block, endRequest_panel]
      all_goals simp [finish, faultEntry, ha.params, ha.bus, ha.accesses, ha.req, ha.payload, ha.readData,
        hrot, hcl, hpan]
      · exact he
      · exact hcs

/-- Every request but CLOSE and the reserved ones ends so, by its row of the permission table
(60_exceptions.md R128). -/
theorem exec_ends {i : Instr} (hr : i.isRequest = true) (hres : isReservedRow i = false)
    (hc : i ≠ .close) (s : State) :
    ∃ t, exec i s = .next t ∧
      RequestEnds i (s.block.state ∈ permissionTable i)
        (boundsOk s i) s t := by
  have framer : (framerPermitted s.block.state = true) =
      (s.block.state ∈ [Lifecycle.uninitialized, .resetting, .ready]) := by
    cases s.block.state <;> simp [framerPermitted]
  have reset : (resetPermitted s.block.state = true) =
      (s.block.state ∈ [Lifecycle.uninitialized, .resetting, .ready, .faulted]) := by
    cases s.block.state <;> simp [resetPermitted]
  have init : (initializePermitted s.block.state = true) = (s.block.state ∈ [Lifecycle.resetting]) := by
    cases s.block.state <;> simp [initializePermitted]
  have ready : (readyOnly s.block.state = true) = (s.block.state ∈ [Lifecycle.ready]) := by
    cases s.block.state <;> simp [readyOnly]
  have none : (noBounds s = true) = True := by simp [noBounds]
  cases i with
  | sendCmd cmd =>
    refine ⟨_, rfl, ?_⟩
    have h := request_ends (i := .sendCmd cmd) (permitted := framerPermitted) (inBounds := noBounds)
      ((frame_sends .low [cmd] s).bodyEnds rfl rfl)
    simpa [framer, none, permissionTable, boundsOk] using h
  | sendData bs =>
    refine ⟨_, rfl, ?_⟩
    have h := request_ends (i := .sendData bs) (permitted := framerPermitted) (inBounds := noBounds)
      ((frame_sends .high bs s).bodyEnds rfl rfl)
    simpa [framer, none, permissionTable, boundsOk] using h
  | reset =>
    refine ⟨_, rfl, ?_⟩
    have h := request_ends (permitted := resetPermitted) (inBounds := noBounds) (resetBody_ends s)
    simpa [reset, none, permissionTable, boundsOk] using h
  | initializePanel =>
    refine ⟨_, rfl, ?_⟩
    have h := request_ends (permitted := initializePermitted) (inBounds := noBounds) (initializeBody_ends s)
    simpa [init, none, permissionTable, boundsOk] using h
  | setRotation r =>
    refine ⟨_, rfl, ?_⟩
    have h := request_ends (permitted := readyOnly) (inBounds := noBounds) (setRotationBody_ends r s)
    simpa [ready, none, permissionTable, boundsOk] using h
  | setAddressWindow x0 y0 x1 y1 =>
    refine ⟨_, rfl, ?_⟩
    have h := request_ends (i := .setAddressWindow x0 y0 x1 y1) (permitted := readyOnly)
      (inBounds := windowInFrame x0 y0 x1 y1)
      ((windowSeq_sends (s16 x0).toNat (s16 y0).toNat (s16 x1).toNat (s16 y1).toNat s).bodyEnds rfl rfl)
    simpa [ready, permissionTable, boundsOk] using h
  | close => exact absurd rfl hc
  | fillRegion x y w h color =>
    refine ⟨_, rfl, ?_⟩
    have h := request_ends (i := .fillRegion x y w h color) (permitted := readyOnly) (inBounds := noBounds)
      ((fillRegionBody_sends (s16 x) (s16 y) (s16 w) (s16 h) (colour16 color) s).bodyEnds rfl rfl)
    simpa [ready, none, permissionTable, boundsOk] using h
  | fillScreen color =>
    refine ⟨_, rfl, ?_⟩
    have h := request_ends (i := .fillScreen color) (permitted := readyOnly) (inBounds := noBounds)
      (body := fillScreenBody (colour16 color))
      ((fillSeq_sends ⟨0, 0, s.width, s.height⟩ (colour16 color) s).bodyEnds rfl rfl)
    simpa [ready, none, permissionTable, boundsOk] using h
  | setPixel x y color =>
    refine ⟨_, rfl, ?_⟩
    have h := request_ends (i := .setPixel x y color) (permitted := readyOnly) (inBounds := noBounds)
      ((setPixelBody_sends (s16 x) (s16 y) (colour16 color) s).bodyEnds rfl rfl)
    simpa [ready, none, permissionTable, boundsOk] using h
  | reserved header operands payload => cases hres
  | panelColumnAddressSet => cases hr
  | panelRowAddressSet => cases hr
  | panelMemoryWrite => cases hr
  | panelMemoryAccessControl => cases hr

/-- CLOSE's two ends (41_controller.md R108, R109). -/
theorem exec_close (s : State) :
    (s.block.state = .closed ∧ exec .close s = .next (s.setErr .none)) ∨
    (s.block.state ≠ .closed ∧ ∃ t, exec .close s = .next t ∧ Around s t ∧ t.block.state = .closed ∧
      t.block.rot = s.block.rot ∧ t.block.claimed = false ∧
      (t.block.lastErr = .none ∨ t.block.lastErr = .lineControl) ∧ t.panel = Panel.indeterminate) := by
  by_cases hs : s.block.state = .closed
  · exact .inl ⟨hs, by simp [exec, execClose, closeRequest, hs]⟩
  · refine .inr ⟨hs, _, rfl, ?_⟩
    obtain ⟨a, b, c, -, h1, hb, hp, hc, -⟩ := releaseAll_spec s
    obtain ⟨c1, -, -, c2, c3, c4, c5, c6⟩ := hc
    simp only [closeRequest, hs, if_false]
    refine ⟨⟨?_, ?_, ?_, ?_, ?_, ?_⟩, ?_, ?_, ?_, ?_, ?_⟩
    all_goals simp [closeBlock, c1, c2, c3, c4, c5, c6, h1, hb, hp, endRequest_panel]

end Sys2Proof.Machine
end

