-- ==== Sys2Proof/Laws/Failures.lean ====
section
/-!
SUPPORT. What a piece of pseudocode emits when an event fails (40_framer.md R89, 60_exceptions.md R133): its
events up to the failing one, and after it at most the CS deassert attempt. One lemma per piece.
-/

namespace Sys2Proof.Machine

/-- A run from `s` that emits `evs` when it ends well, and on an error a part of them that ends in the
failing event, with what follows a failure. -/
def Follows (evs : List Event) (s : State) : Run → Prop
  | .done t => t.trace = s.trace ++ evs
  | .raised err t => ∃ (n : Nat) (e e' : Event) (ok : Bool), evs[n]? = some e ∧ FailsAs e e' ∧
      t.trace = s.trace ++ evs.take n ++ e' :: deassertAfter e' ok ∧ err = raisedBy e'

theorem Follows.refl (s : State) : Follows [] s (.done s) := by simp [Follows]

/-- Pieces one after the other emit their events one after the other. -/
theorem Follows.andThen {evs evs' : List Event} {s : State} {r : Run} {f : State → Run}
    (h : Follows evs s r) (hf : ∀ t, r = .done t → Follows evs' t (f t)) :
    Follows (evs ++ evs') s (r.andThen f) := by
  cases r with
  | raised err t =>
    obtain ⟨n, e, e', ok, hn, he, ht, herr⟩ := h
    have hlt : n < evs.length := (List.getElem?_eq_some_iff.1 hn).1
    refine ⟨n, e, e', ok, ?_, he, ?_, herr⟩
    · rw [List.getElem?_append_left hlt, hn]
    · rw [ht, List.take_append_of_le_length (Nat.le_of_lt hlt)]
  | done t =>
    have h : t.trace = s.trace ++ evs := h
    have h2 := hf t rfl
    rw [Run.andThen_done]
    revert h2
    cases f t with
    | done u =>
      intro h2
      simp only [Follows] at h2 ⊢
      rw [h2, h, List.append_assoc]
    | raised err u =>
      rintro ⟨n, e, e', ok, hn, he, ht, herr⟩
      refine ⟨evs.length + n, e, e', ok, ?_, he, ?_, herr⟩
      · rw [List.getElem?_append_right (Nat.le_add_right _ _), Nat.add_sub_cancel_left, hn]
      · rw [ht, h, List.take_length_add_append]
        simp only [List.append_assoc]

/-- A run that ends well goes on to a state with the same trace. -/
theorem Follows.thenDone {evs : List Event} {s : State} {r : Run} {f : State → State}
    (h : Follows evs s r) (hf : ∀ t, (f t).trace = t.trace) :
    Follows evs s (r.andThen fun t => .done (f t)) := by
  cases r with
  | raised err t => exact h
  | done t => exact (hf t).trans h

/-- A run from a state with the same trace. -/
theorem Follows.ofTrace {evs : List Event} {s s' : State} {r : Run} (h : Follows evs s r)
    (hs : s'.trace = s.trace) : Follows evs s' r := by
  cases r <;> simpa only [Follows, hs] using h

theorem setLine_follows (l : LineName) (lv : Level) (s : State)
    (h : ∀ ok, deassertAfter (.setLine l lv false) ok = []) :
    Follows [.setLine l lv true] s (setLine l lv s) := by
  cases ha : s.nextAnswer with
  | ok =>
    rw [setLine_ok ha]
    rfl
  | fail k =>
    rw [setLine_fail ha]
    exact ⟨0, _, _, true, rfl, .setLine l lv, by simp [lineFailed, h], rfl⟩

/-- A transaction (40_framer.md R88, R89). -/
theorem frame_follows (dc : Level) (bs : List Byte) (s : State) :
    Follows (frameEvents dc bs) s (frame dc bs s) := by
  rcases frame_cases dc bs s with h | h | h | ⟨k, h⟩ | h <;> rw [h]
  · rfl
  · exact ⟨0, _, _, true, rfl, .setLine _ _, by simp [lineFailed, deassertAfter], rfl⟩
  · obtain ⟨ok, ht, -⟩ := deassertAttempt_spec (lineFailed .cs .low (lineDriven .dc dc s))
    exact ⟨1, _, _, ok, rfl, .setLine _ _,
      by rw [ht]; simp [lineFailed, lineDriven, frameEvents, deassertAfter], rfl⟩
  · obtain ⟨ok, ht, -⟩ := deassertAttempt_spec (bytesCut bs k (lineDriven .cs .low (lineDriven .dc dc s)))
    exact ⟨2, _, _, ok, rfl, .write bs (min k bs.length) (Nat.min_le_right _ _),
      by rw [ht]; simp [bytesCut, lineDriven, frameEvents, deassertAfter], rfl⟩
  · exact ⟨3, _, _, true, rfl, .setLine _ _,
      by simp [lineFailed, bytesSent, lineDriven, frameEvents, deassertAfter], rfl⟩

/-- A window sequence (41_controller.md R105). -/
theorem windowSeq_follows (x0 y0 x1 y1 : Nat) (s : State) :
    Follows (windowEvents x0 y0 x1 y1) s (windowSeq x0 y0 x1 y1 s) := by
  have h := (frame_follows .low [0x2A#8] s).andThen fun t _ =>
    (frame_follows .high (coordinateBytes x0 x1) t).andThen fun t _ =>
      (frame_follows .low [0x2B#8] t).andThen fun t _ =>
        (frame_follows .high (coordinateBytes y0 y1) t).andThen fun t _ => frame_follows .low [0x2C#8] t
  exact h

/-- Data transactions one after the other. -/
theorem dataFrames_follows (bss : List (List Byte)) (s : State) :
    Follows (bss.flatMap dataEvents) s (dataFrames bss s) := by
  induction bss generalizing s with
  | nil => exact Follows.refl s
  | cons bs rest ih => exact (frame_follows .high bs s).andThen fun t _ => ih t

/-- A fill of a rectangle (42_pixel_fill.md R115). -/
theorem fillSeq_follows (r : Rect) (c : Half) (s : State) :
    Follows (fillEvents s.params.chunkPixels r c) s (fillSeq r c s) :=
  (windowSeq_follows _ _ _ _ s).andThen fun _ _ => dataFrames_follows _ _

/-- One entry of INIT_TABLE (41_controller.md R98). -/
theorem emitEntry_follows (e : InitEntry) (s : State) : Follows (entryEvents e) s (emitEntry e s) := by
  cases e with
  | wait ms => rfl
  | cmd c ps =>
    cases ps with
    | nil => exact (frame_follows .low [c] s).thenDone fun _ => rfl
    | cons p ps => exact (frame_follows .low [c] s).andThen fun t _ => frame_follows .high (p :: ps) t

/-- The entries of INIT_TABLE, in order (41_controller.md R96). -/
theorem emitTable_follows (es : List InitEntry) (s : State) :
    Follows (es.flatMap entryEvents) s (emitTable es s) := by
  induction es generalizing s with
  | nil => exact Follows.refl s
  | cons e es ih => exact (emitEntry_follows e s).andThen fun t _ => ih t

/-- A hold after a piece of pseudocode, and what comes next. -/
theorem Follows.afterDelay {evs : List Event} {ms : Nat} {s : State} {r : Run}
    (h : Follows evs (delay ms s) r) : Follows (.delay ms :: evs) s r := by
  have h' : Follows ([.delay ms] ++ evs) s ((Run.done (delay ms s)).andThen fun _ => r) :=
    Follows.andThen rfl fun t ht => by cases ht; exact h
  exact h'

/-- The reset pulse (41_controller.md R93, R94). -/
theorem resetPulse_follows (s : State) : Follows pulseEvents s (resetPulse s) :=
  (setLine_follows .rst .high s fun _ => rfl).andThen fun _ _ =>
    Follows.afterDelay <| (setLine_follows .rst .low _ fun _ => rfl).andThen fun _ _ =>
      Follows.afterDelay <| (setLine_follows .rst .high _ fun _ => rfl).andThen fun _ _ => rfl

/-! ### Requests -/

theorem resetBody_follows (s : State) : Follows pulseEvents s (resetBody s) :=
  ((resetPulse_follows (s.setState .resetting)).ofTrace rfl).thenDone fun _ => rfl

theorem initializeBody_follows (s : State) :
    Follows (s.params.initTable.flatMap entryEvents) s (initializeBody s) :=
  ((emitTable_follows s.params.initTable (s.setState .configuring)).ofTrace rfl).thenDone fun _ => rfl

theorem setRotationBody_follows (i : BitVec 2) (s : State) :
    Follows (cmdEvents 0x36#8 ++ dataEvents [madctlByte i]) s (setRotationBody i s) :=
  (frame_follows .low [0x36#8] s).andThen fun t _ =>
    (frame_follows .high [madctlByte i] t).thenDone fun _ => rfl

theorem fillRegionBody_follows (x y w h : Half) (color : Word) (s : State) :
    Follows (completedEvents s (.fillRegion x y w h color)) s
      (fillRegionBody (s16 x) (s16 y) (s16 w) (s16 h) (colour16 color) s) := by
  simp only [fillRegionBody, completedEvents]
  cases clip s.width s.height (s16 x) (s16 y) (s16 w) (s16 h) with
  | none => exact Follows.refl s
  | some r => exact fillSeq_follows r (colour16 color) s

theorem setPixelBody_follows (x y : Half) (color : Word) (s : State) :
    Follows (completedEvents s (.setPixel x y color)) s
      (setPixelBody (s16 x) (s16 y) (colour16 color) s) := by
  simp only [setPixelBody, completedEvents]
  split
  · exact (windowSeq_follows _ _ _ _ s).andThen fun t _ => frame_follows .high (bigEndian (colour16 color)) t
  · exact Follows.refl s

/-- A request that ends with an error of its execution has emitted its events up to the failing one, and
after it at most the CS deassert attempt (60_exceptions.md R133). -/
theorem request_follows {permitted : Lifecycle → Bool} {inBounds : State → Bool} {body : State → Run}
    {evs : List Event} {s : State} (h : Follows evs s (body s))
    (he : (request permitted inBounds body s).block.lastErr = .transport ∨
      (request permitted inBounds body s).block.lastErr = .lineControl) :
    ∃ (n : Nat) (e e' : Event) (ok : Bool), evs[n]? = some e ∧ FailsAs e e' ∧
      (request permitted inBounds body s).trace =
        s.trace ++ evs.take n ++ e' :: deassertAfter e' ok ∧
      (request permitted inBounds body s).block.lastErr = raisedBy e' := by
  rcases request_cases permitted inBounds body s with ⟨-, hr⟩ | ⟨-, -, hr⟩ | ⟨-, -, hr⟩ <;> rw [hr] at he ⊢
  · simp at he
  · simp at he
  · revert h he
    cases body s with
    | done t => simp [finish]
    | raised err t =>
      rintro ⟨n, e, e', ok, hn, hf, ht, herr⟩ -
      exact ⟨n, e, e', ok, hn, hf, by simpa [finish, faultEntry] using ht,
        by simpa [finish, faultEntry] using herr⟩

end Sys2Proof.Machine
end

