-- ==== Sys2Proof/Laws/PerInstr.lean ====
section
/-!
SUPPORT. The family `Lengths`: a statement about each instruction as syntax, one lemma per constructor.
-/

namespace Sys2Proof.Laws.Lengths

/-- 30_encoding.md R67 and R71: a well-formed request is a header, the operand words and the payload bytes
that its header and first operand word fix, and is no command byte; a panel command is one byte and no word. -/
def Statement (i : Instr) : Prop :=
  i.wf = true →
    (i.isRequest = true → encodeCommandByte i = none ∧ ∃ header operands, encode i = header :: operands ∧
      operands.length = operandCount (opcode header) ∧
      (encodePayload i).length = payloadLength header operands) ∧
    (i.isRequest = false → (encodeCommandByte i).isSome = true ∧ encode i = [] ∧ encodePayload i = [])

theorem sendCmd (cmd : Byte) : Statement (.sendCmd cmd) :=
  fun _ => ⟨fun _ => ⟨rfl, _, _, rfl, rfl, rfl⟩, by simp [Instr.isRequest]⟩

theorem sendData (payload : List Byte) : Statement (.sendData payload) := by
  intro h
  have h : payload.length < 2 ^ 32 := by simpa [Instr.wf] using h
  refine ⟨fun _ => ⟨rfl, _, _, rfl, rfl, ?_⟩, by simp [Instr.isRequest]⟩
  simp [encodePayload, payloadLength, show opcode 2#32 = 2#8 from rfl]
  omega

theorem reset : Statement .reset :=
  fun _ => ⟨fun _ => ⟨rfl, _, _, rfl, rfl, rfl⟩, by simp [Instr.isRequest]⟩

theorem initializePanel : Statement .initializePanel :=
  fun _ => ⟨fun _ => ⟨rfl, _, _, rfl, rfl, rfl⟩, by simp [Instr.isRequest]⟩

theorem setRotation (r : Word) : Statement (.setRotation r) :=
  fun _ => ⟨fun _ => ⟨rfl, _, _, rfl, rfl, rfl⟩, by simp [Instr.isRequest]⟩

theorem setAddressWindow (x0 y0 x1 y1 : Half) : Statement (.setAddressWindow x0 y0 x1 y1) :=
  fun _ => ⟨fun _ => ⟨rfl, _, _, rfl, rfl, rfl⟩, by simp [Instr.isRequest]⟩

theorem close : Statement .close :=
  fun _ => ⟨fun _ => ⟨rfl, _, _, rfl, rfl, rfl⟩, by simp [Instr.isRequest]⟩

theorem fillRegion (x y w h : Half) (color : Word) : Statement (.fillRegion x y w h color) :=
  fun _ => ⟨fun _ => ⟨rfl, _, _, rfl, rfl, rfl⟩, by simp [Instr.isRequest]⟩

theorem fillScreen (color : Word) : Statement (.fillScreen color) :=
  fun _ => ⟨fun _ => ⟨rfl, _, _, rfl, rfl, rfl⟩, by simp [Instr.isRequest]⟩

theorem setPixel (x y : Half) (color : Word) : Statement (.setPixel x y color) :=
  fun _ => ⟨fun _ => ⟨rfl, _, _, rfl, rfl, rfl⟩, by simp [Instr.isRequest]⟩

theorem reserved (header : Word) (operands : List Word) (payload : List Byte) :
    Statement (.reserved header operands payload) := by
  intro h
  simp only [Instr.wf, Bool.and_eq_true, beq_iff_eq] at h
  exact ⟨fun _ => ⟨rfl, _, _, rfl, h.1.2, h.2⟩, by simp [Instr.isRequest]⟩

theorem panelColumnAddressSet : Statement .panelColumnAddressSet :=
  fun _ => ⟨by simp [Instr.isRequest], fun _ => ⟨rfl, rfl, rfl⟩⟩

theorem panelRowAddressSet : Statement .panelRowAddressSet :=
  fun _ => ⟨by simp [Instr.isRequest], fun _ => ⟨rfl, rfl, rfl⟩⟩

theorem panelMemoryWrite : Statement .panelMemoryWrite :=
  fun _ => ⟨by simp [Instr.isRequest], fun _ => ⟨rfl, rfl, rfl⟩⟩

theorem panelMemoryAccessControl : Statement .panelMemoryAccessControl :=
  fun _ => ⟨by simp [Instr.isRequest], fun _ => ⟨rfl, rfl, rfl⟩⟩

end Sys2Proof.Laws.Lengths
end

