-- ==== Sys2Proof/Machine/Assembler.lean ====
section
/-!
DEFINITION. The textual form of requests (30_encoding.md R83) and the pseudo-request `startup` (R84). One
request a line; the result is, for each line, what the host writes to REQ and PAYLOAD. A line is a list of
characters.
DESIGN CHOICE (log 16), safe.
-/

namespace Sys2Proof.Machine

/-- The words for REQ and the bytes for PAYLOAD of one line. -/
structure Assembled where
  words : List Word
  payload : List Byte
deriving DecidableEq, Repr

/-- Why a line is refused (30_encoding.md R83). -/
inductive AsmError where
  /-- a mnemonic that is not in the list -/
  | unknownMnemonic
  /-- not a list of as many numbers as the request takes -/
  | operandForm
  /-- an operand, or the count of send_data's operands, out of its range -/
  | operandRange
deriving DecidableEq, Repr

/-- A number as written: its sign and its magnitude. -/
structure AsmNum where
  neg : Bool
  magnitude : Nat
deriving DecidableEq, Repr

/-! ### Operand ranges -/

/-- `<u8>` -/
def AsmNum.toU8 (n : AsmNum) : Except AsmError Byte :=
  if n.neg = false ∧ n.magnitude ≤ 255 then .ok (BitVec.ofNat 8 n.magnitude) else .error .operandRange

/-- `<u32>` -/
def AsmNum.toU32 (n : AsmNum) : Except AsmError Word :=
  if n.neg = false ∧ n.magnitude < 2 ^ 32 then .ok (BitVec.ofNat 32 n.magnitude) else .error .operandRange

/-- `<s16>`: a leading minus sign is allowed. -/
def AsmNum.toS16 (n : AsmNum) : Except AsmError Half :=
  if n.neg = true ∧ n.magnitude ≤ 32768 then .ok (BitVec.ofInt 16 (-(n.magnitude : Int)))
  else if n.neg = false ∧ n.magnitude ≤ 32767 then .ok (BitVec.ofNat 16 n.magnitude)
  else .error .operandRange

/-! ### Scanning a line -/

/-- The value of a digit, decimal or hexadecimal. -/
def digitValue (c : Char) : Nat :=
  if '0' ≤ c ∧ c ≤ '9' then c.toNat - '0'.toNat
  else if 'a' ≤ c ∧ c ≤ 'f' then c.toNat - 'a'.toNat + 10
  else if 'A' ≤ c ∧ c ≤ 'F' then c.toNat - 'A'.toNat + 10
  else 16

/-- Digits in a base, the first the most significant; none unless there is at least one and each is of the
base. -/
def digitsValue (base : Nat) (cs : List Char) : Option Nat :=
  if cs = [] ∨ cs.any (fun c => base ≤ digitValue c) then none
  else some (cs.foldl (fun n c => n * base + digitValue c) 0)

/-- A magnitude: hexadecimal with 0x, else decimal. -/
def scanMagnitude : List Char → Option Nat
  | '0' :: 'x' :: cs => digitsValue 16 cs
  | cs => digitsValue 10 cs

/-- A number, with its sign. -/
def scanNumber : List Char → Option AsmNum
  | '-' :: cs => (scanMagnitude cs).map (AsmNum.mk true)
  | cs => (scanMagnitude cs).map (AsmNum.mk false)

/-- The pieces of a text between separators; the accumulator holds the current piece. -/
def splitAtChar (sep : Char) : List Char → List Char → List (List Char)
  | [], acc => [acc]
  | c :: cs, acc => if c = sep then acc :: splitAtChar sep cs [] else splitAtChar sep cs (acc ++ [c])

/-- Without blanks at either end. -/
def trimBlanks (cs : List Char) : List Char :=
  ((cs.dropWhile (· = ' ')).reverse.dropWhile (· = ' ')).reverse

/-- Comma-separated numbers; no text is no number. -/
def scanOperands (cs : List Char) : Except AsmError (List AsmNum) :=
  if trimBlanks cs = [] then .ok []
  else
    match (splitAtChar ',' cs []).mapM (fun t => scanNumber (trimBlanks t)) with
    | some ns => .ok ns
    | none => .error .operandForm

/-! ### Assembling -/

/-- The words and bytes of an instruction. -/
def assembleInstr (i : Instr) : Assembled := ⟨encode i, encodePayload i⟩

/-- A request by its mnemonic and operands (30_encoding.md R83, R84). A send_data of more bytes than LEN can
count is refused: R83 says LEN = their count and names no such refusal. DESIGN CHOICE (log 16), safe. -/
def assembleRequest (mnemonic : List Char) (ops : List AsmNum) : Except AsmError Assembled :=
  if mnemonic = "send_cmd".toList then
    match ops with
    | [a] => do return assembleInstr (.sendCmd (← a.toU8))
    | _ => .error .operandForm
  else if mnemonic = "send_data".toList then
    if ops.length < 2 ^ 32 then do return assembleInstr (.sendData (← ops.mapM AsmNum.toU8))
    else .error .operandRange
  else if mnemonic = "reset".toList then
    if ops = [] then .ok (assembleInstr .reset) else .error .operandForm
  else if mnemonic = "initialize".toList then
    if ops = [] then .ok (assembleInstr .initializePanel) else .error .operandForm
  else if mnemonic = "set_rotation".toList then
    match ops with
    | [a] => do return assembleInstr (.setRotation (← a.toU32))
    | _ => .error .operandForm
  else if mnemonic = "set_window".toList then
    match ops with
    | [a, b, c, d] => do
      return assembleInstr (.setAddressWindow (← a.toS16) (← b.toS16) (← c.toS16) (← d.toS16))
    | _ => .error .operandForm
  else if mnemonic = "close".toList then
    if ops = [] then .ok (assembleInstr .close) else .error .operandForm
  else if mnemonic = "fill_region".toList then
    match ops with
    | [a, b, c, d, e] => do
      return assembleInstr (.fillRegion (← a.toS16) (← b.toS16) (← c.toS16) (← d.toS16) (← e.toU32))
    | _ => .error .operandForm
  else if mnemonic = "fill_screen".toList then
    match ops with
    | [a] => do return assembleInstr (.fillScreen (← a.toU32))
    | _ => .error .operandForm
  else if mnemonic = "set_pixel".toList then
    match ops with
    | [a, b, c] => do return assembleInstr (.setPixel (← a.toS16) (← b.toS16) (← c.toU32))
    | _ => .error .operandForm
  else if mnemonic = ".req".toList then
    match ops with
    | [] => .error .operandForm
    | _ :: _ => do return ⟨← ops.mapM AsmNum.toU32, []⟩
  else if mnemonic = "startup".toList then
    match ops with
    | [a] => do return ⟨encode .reset ++ encode .initializePanel ++ encode (.setRotation (← a.toU32)), []⟩
    | _ => .error .operandForm
  else .error .unknownMnemonic

/-- One line; none where it holds only blanks or a comment (30_encoding.md R83). The operands are scanned
before the mnemonic is looked up, so that a line with both faults is refused as operandForm; R83 gives the
refusals no priority. DESIGN CHOICE (log 16), safe. -/
def assembleLine (line : List Char) : Except AsmError (Option Assembled) :=
  let text := trimBlanks (line.takeWhile (· != ';'))
  if text = [] then .ok none
  else do
    let ops ← scanOperands (text.dropWhile (· != ' '))
    return some (← assembleRequest (text.takeWhile (· != ' ')) ops)

/-- The lines from a line number on, what each request line assembles to in order; a refusal carries its line
number (30_encoding.md R83). -/
def assembleLines : Nat → List (List Char) → Except (Nat × AsmError) (List Assembled)
  | _, [] => .ok []
  | n, line :: rest =>
    match assembleLine line with
    | .error e => .error (n, e)
    | .ok none => assembleLines (n + 1) rest
    | .ok (some a) =>
      match assembleLines (n + 1) rest with
      | .error e => .error e
      | .ok b => .ok (a :: b)

end Sys2Proof.Machine
end

