-- ==== Sys2Proof/Tests/Slice0.lean ====
section
/-!
SUPPORT. The model's own tests: decoding of words written out from 30_encoding.md, the smoke test of
WellFormed, at most two small theorems per instruction whose expected results are those of
95_test_vectors.md, and a witness for every statement that has hypotheses. T.s is the state of a test.
-/

namespace Sys2Proof.Tests

open Sys2Proof Sys2Proof.Machine

/-! ### Small states -/

/-- The parameters of the tests: 320 by 480, chunks of `chunk` pixels, the given table. -/
def params (chunk : Nat := 512) (table : List InitEntry := Config.someParams.initTable) : Params :=
  { Config.someParams with chunkPixels := chunk, maxTransferBytes := 2 * chunk, initTable := table }

/-- The table T1 of 95_test_vectors.md with a = 0x0A, b = 0x0B, p1 = 1, p2 = 2. -/
def tableT1 : List InitEntry := [.cmd 0x0A#8 [], .wait 120, .cmd 0x0B#8 [1#8, 2#8]]

/-- A state with the given lifecycle state, rotation and answers: the panel live where a run could have made
it so, RST high after a pulse, CS and DC high in `Ready`. -/
def at' (l : Lifecycle) (rot : BitVec 2) (answers : List Answer) (p : Params := params) : State :=
  { State.constructed p with
    block :=
      { state := l
        rot := rot
        lastErr := .none
        lineDC := if l = .ready then .known .high else .unknown
        lineRST := if l = .ready ∨ l = .resetting then .known .high else .unknown
        lineCS := if l = .ready then .known .high else .unknown
        claimed := l != .closed }
    panel :=
      if l = .ready then { Panel.afterReset with madctl := some (madctlByte rot) }
      else if l = .resetting then Panel.afterReset else Panel.indeterminate
    answers := answers }

/-- `n` answers OK. -/
def oks (n : Nat) : List Answer := List.replicate n .ok

/-- The next state, if there is one. -/
def nextOf : Host.Outcome State Fault Refusal → Option State
  | .next t => some t
  | _ => none

/-- The trace, the state, the rotation and the result an instruction leaves. -/
def ends (i : Instr) (s : State) : Option (List Event × Lifecycle × BitVec 2 × ErrCode) :=
  (nextOf (exec i s)).map fun t => (t.trace, t.block.state, t.block.rot, t.block.lastErr)

/-- The state after instructions one after the other. -/
def runs : List Instr → State → Option State
  | [], s => some s
  | i :: is, s => (nextOf (exec i s)).bind (runs is)

/-! ### Decoding: each word from its fields in 30_encoding.md -/

theorem test_decode_send_cmd :
    decodeRequest [0b00000000000000000000000000000001#32, 0b00000000000000000000000000101001#32] [] =
      .complete (.sendCmd 0b00101001#8) [] [] := by decide

theorem test_decode_send_data :
    decodeRequest [0b00000000000000000000000000000010#32, 0b00000000000000000000000000000010#32]
      [0x01#8, 0x2C#8, 0x00#8] = .complete (.sendData [0x01#8, 0x2C#8]) [] [0x00#8] := by decide

theorem test_decode_reset :
    decodeRequest [0b00000000000000000000000000010000#32] [] = .complete .reset [] [] := by decide

theorem test_decode_initialize :
    decodeRequest [0b00000000000000000000000000010001#32] [] = .complete .initializePanel [] [] := by decide

theorem test_decode_set_rotation :
    decodeRequest [0b00000000000000000000000000010010#32, 0b10000000000000000000000000000001#32] [] =
      .complete (.setRotation 0x80000001#32) [] [] := by decide

theorem test_decode_set_address_window :
    decodeRequest [0b00000000000000000000000000010011#32, 0b00000000000000000000000100101100#32,
      0b00000001110111110000000100111111#32] [] = .complete (.setAddressWindow 300 0 319 479) [] [] := by
  decide

theorem test_decode_close :
    decodeRequest [0b00000000000000000000000000011111#32] [] = .complete .close [] [] := by decide

theorem test_decode_fill_region :
    decodeRequest [0b00000000000000000000000000100000#32, 0b00000000000000001111111111111011#32,
      0b00000000000000010000000000001010#32, 0b00000000000000000000000000011111#32] [] =
      .complete (.fillRegion (BitVec.ofInt 16 (-5)) 0 10 1 0x1F#32) [] [] := by decide

theorem test_decode_fill_screen :
    decodeRequest [0b00000000000000000000000000100001#32, 0b00010010001101000101011001111000#32] [] =
      .complete (.fillScreen 0x12345678#32) [] [] := by decide

theorem test_decode_set_pixel :
    decodeRequest [0b00000000000000000000000000100010#32, 0b00000001110111110000000100111111#32,
      0b00000000000000001111111111111111#32] [] = .complete (.setPixel 319 479 0xFFFF#32) [] [] := by decide

theorem test_decode_reserved :
    decodeRequest [0b00000000000000000000000100010011#32, 0#32, 0#32, 0x10#32] [] =
      .complete (.reserved 0x113#32 [0#32, 0#32] []) [0x10#32] [] := by decide

theorem test_decode_panel_commands :
    decodeCommandByte 0b00101010#8 = some .panelColumnAddressSet ∧
      decodeCommandByte 0b00101011#8 = some .panelRowAddressSet ∧
      decodeCommandByte 0b00101100#8 = some .panelMemoryWrite ∧
      decodeCommandByte 0b00110110#8 = some .panelMemoryAccessControl ∧
      decodeCommandByte 0b00101001#8 = none := by decide

/-- A request whose words or bytes are not all there is not decoded (20_memory.md R39). -/
theorem test_decode_incomplete :
    decodeRequest [] [] = .incomplete ∧ decodeRequest [0x20#32, 0#32, 0#32] [] = .incomplete ∧
      decodeRequest [0x02#32, 2#32] [0#8] = .incomplete := by decide

/-- The rows of spec/opcode_table.json in its own numbering. -/
theorem test_decode_table_words :
    decodeTableWord 64 0x0000002900000001 = some (.sendCmd 0x29#8) ∧
      decodeTableWord 96 0x01DF013F0000012C00000013 = some (.setAddressWindow 300 0 319 479) ∧
      decodeTableWord 8 0x36 = some .panelMemoryAccessControl := by decide

/-! ### WellFormed: an ill-formed term for each check -/

/-- LEN has 32 bits. -/
theorem test_wf_refuses_long_payload (payload : List Byte) (h : payload.length = 2 ^ 32) :
    (Instr.sendData payload).wf = false := by
  simp only [Instr.wf, h, Nat.lt_irrefl, decide_false]

theorem test_wf_refuses_legal_header : (Instr.reserved 0x10#32 [] []).wf = false := by decide

theorem test_wf_refuses_wrong_operands : (Instr.reserved 0x100#32 [0#32] []).wf = false := by decide

theorem test_wf_refuses_wrong_payload : (Instr.reserved 0x102#32 [2#32] [0#8]).wf = false := by decide

theorem test_wf_admits :
    (Instr.sendData []).wf = true ∧ (Instr.reserved 0x03#32 [] []).wf = true ∧
      (Instr.reserved 0x01#32 [0x129#32] []).wf = true ∧
      (Instr.reserved 0x102#32 [1#32] [0#8]).wf = true := by decide

/-! ### One or two steps per instruction, from 95_test_vectors.md -/

/-- VF1 -/
theorem test_send_cmd :
    ends (.sendCmd 0x29#8) (at' .ready 0#2 (oks 4)) =
      some ([.setLine .dc .low true, .setLine .cs .low true, .write [0x29#8] none, .setLine .cs .high true],
        .ready, 0#2, .none) := by decide

/-- VF11 -/
theorem test_send_cmd_assert_fails :
    ends (.sendCmd 0x29#8) (at' .ready 0#2 [.ok, .fail 0, .ok]) =
      some ([.setLine .dc .low true, .setLine .cs .low false, .setLine .cs .high true],
        .faulted, 0#2, .lineControl) := by decide

/-- VF4 -/
theorem test_send_data_empty :
    ends (.sendData []) (at' .ready 0#2 (oks 4)) =
      some ([.setLine .dc .high true, .setLine .cs .low true, .write [] none, .setLine .cs .high true],
        .ready, 0#2, .none) := by decide

/-- VF14: the first error is the one reported. -/
theorem test_send_data_fails_twice :
    ends (.sendData [7#8]) (at' .ready 0#2 [.ok, .ok, .fail 0, .fail 0]) =
      some ([.setLine .dc .high true, .setLine .cs .low true, .write [7#8] (some 0),
        .setLine .cs .high false], .faulted, 0#2, .transport) := by decide

/-- VC2 -/
theorem test_reset :
    ends .reset (at' .ready 1#2 (oks 3)) =
      some ([.setLine .rst .high true, .delay 50, .setLine .rst .low true, .delay 100,
        .setLine .rst .high true, .delay 50], .resetting, 1#2, .none) := by decide

/-- VC5 -/
theorem test_reset_fails :
    ends .reset (at' .resetting 0#2 [.ok, .fail 0]) =
      some ([.setLine .rst .high true, .delay 50, .setLine .rst .low false], .faulted, 0#2, .lineControl) := by
  decide

/-- VC6 -/
theorem test_initialize :
    ends .initializePanel (at' .resetting 0#2 (oks 12) (params 512 tableT1)) =
      some ([.setLine .dc .low true, .setLine .cs .low true, .write [0x0A#8] none, .setLine .cs .high true,
        .delay 120, .setLine .dc .low true, .setLine .cs .low true, .write [0x0B#8] none,
        .setLine .cs .high true, .setLine .dc .high true, .setLine .cs .low true, .write [1#8, 2#8] none,
        .setLine .cs .high true], .ready, 0#2, .none) := by decide

/-- VC9 -/
theorem test_initialize_not_permitted :
    ends .initializePanel (at' .uninitialized 0#2 []) = some ([], .uninitialized, 0#2, .notPermitted) := by
  decide

/-- VC13 -/
theorem test_set_rotation :
    ends (.setRotation 0xFFFFFFFF#32) (at' .ready 0#2 (oks 8)) =
      some ([.setLine .dc .low true, .setLine .cs .low true, .write [0x36#8] none, .setLine .cs .high true,
        .setLine .dc .high true, .setLine .cs .low true, .write [0xE8#8] none, .setLine .cs .high true],
        .ready, 3#2, .none) := by decide

/-- VC10 and its GEOMETRY: the frame is 480 by 320 after rotation 1. -/
theorem test_set_rotation_geometry :
    (nextOf (exec (.setRotation 1#32) (at' .ready 0#2 (oks 8)))).map geometryWord = some 0x014001E0#32 := by
  decide

/-- VC23 -/
theorem test_set_address_window :
    ends (.setAddressWindow 0 0 479 319) (at' .ready 1#2 (oks 20)) =
      some (cmdEvents 0x2A#8 ++ dataEvents [0#8, 0#8, 0x01#8, 0xDF#8] ++ cmdEvents 0x2B#8 ++
        dataEvents [0#8, 0#8, 0x01#8, 0x3F#8] ++ cmdEvents 0x2C#8, .ready, 1#2, .none) := by decide

/-- VC22 -/
theorem test_set_address_window_bounds :
    ends (.setAddressWindow (BitVec.ofInt 16 (-1)) 0 5 5) (at' .ready 0#2 []) =
      some ([], .ready, 0#2, .bounds) := by decide

/-- VC28 -/
theorem test_close_fails :
    ends .close (at' .ready 0#2 [.ok, .fail 0, .ok]) =
      some ([.release .dc true, .release .rst false, .release .cs true], .closed, 0#2, .lineControl) := by
  decide

/-- VC27 -/
theorem test_close_twice : ends .close (at' .closed 0#2 []) = some ([], .closed, 0#2, .none) := by decide

/-- VP2 -/
theorem test_fill_region_clips :
    ends (.fillRegion (BitVec.ofInt 16 (-5)) 0 10 1 0x1F#32) (at' .ready 0#2 (oks 24)) =
      some (cmdEvents 0x2A#8 ++ dataEvents [0#8, 0#8, 0#8, 4#8] ++ cmdEvents 0x2B#8 ++
        dataEvents [0#8, 0#8, 0#8, 0#8] ++ cmdEvents 0x2C#8 ++
        dataEvents [0#8, 0x1F#8, 0#8, 0x1F#8, 0#8, 0x1F#8, 0#8, 0x1F#8, 0#8, 0x1F#8],
        .ready, 0#2, .none) := by decide

set_option maxRecDepth 4000 in
/-- VP12, what the panel holds at the end: the region has the colour, the pixel beside it is unknown. -/
theorem test_fill_region_paints :
    (nextOf (exec (.fillRegion 0 0 2 2 0xABCD#32) (at' .ready 0#2 (oks 36) (params 1)))).map
      (fun t => (t.trace.length, t.panel.fb.read 1 1, t.panel.fb.read 2 1, t.panel.wptr)) =
      some (36, some 0xABCD#16, none, 4) := by decide

/-- FILL_SCREEN at the smallest frame (42_pixel_fill.md R118): one pixel, whatever the chunk. -/
theorem test_fill_screen :
    ends (.fillScreen 0x12345678#32)
      (at' .ready 0#2 (oks 24) { params with nativeW := 1, nativeH := 1 }) =
      some (cmdEvents 0x2A#8 ++ dataEvents [0#8, 0#8, 0#8, 0#8] ++ cmdEvents 0x2B#8 ++
        dataEvents [0#8, 0#8, 0#8, 0#8] ++ cmdEvents 0x2C#8 ++ dataEvents [0x56#8, 0x78#8],
        .ready, 0#2, .none) := by decide

/-- VP18 -/
theorem test_set_pixel :
    ends (.setPixel 319 479 0xFFFF#32) (at' .ready 0#2 (oks 24)) =
      some (cmdEvents 0x2A#8 ++ dataEvents [0x01#8, 0x3F#8, 0x01#8, 0x3F#8] ++ cmdEvents 0x2B#8 ++
        dataEvents [0x01#8, 0xDF#8, 0x01#8, 0xDF#8] ++ cmdEvents 0x2C#8 ++ dataEvents [0xFF#8, 0xFF#8],
        .ready, 0#2, .none) := by decide

/-- VP19 -/
theorem test_set_pixel_outside :
    ends (.setPixel 320 0 1#32) (at' .ready 0#2 []) = some ([], .ready, 0#2, .none) := by decide

/-- VE1 and VE2 -/
theorem test_reserved :
    ends (.reserved 0x03#32 [] []) (at' .closed 0#2 []) = some ([], .closed, 0#2, .illegal) ∧
      ends (.reserved 0x113#32 [0#32, 0#32] []) (at' .ready 0#2 []) = some ([], .ready, 0#2, .illegal) := by
  decide

set_option maxRecDepth 4000 in
/-- VM2: a half pixel carries over from one transaction to the next. -/
theorem test_pixel_stream :
    (runs [.setAddressWindow 0 0 1 1, .sendData [0xAA#8, 0xBB#8, 0xCC#8], .sendData [0xDD#8, 0x11#8, 0x22#8]]
      (at' .ready 0#2 (oks 28))).map
      (fun t => (t.panel.fb.read 0 0, t.panel.fb.read 1 0, t.panel.fb.read 0 1, t.panel.fb.read 1 1)) =
      some (some 0xAABB#16, some 0xCCDD#16, some 0x1122#16, none) := by decide

/-- VM7, the 0x2C: the half pixel is dropped and the stream starts again. -/
theorem test_panel_memory_write :
    (runs [.setAddressWindow 0 0 1 0, .sendData [0x12#8], .panelMemoryWrite, .sendData [0x34#8, 0x56#8]]
      (at' .ready 0#2 (oks 28))).map (fun t => (t.panel.fb.read 0 0, t.panel.wptr, t.panel.half)) =
      some (some 0x3456#16, 1, none) := by decide

theorem test_panel_column_address_set :
    (runs [.panelColumnAddressSet, .sendData [0x01#8, 0x2C#8, 0x01#8, 0x3F#8]]
      (at' .ready 0#2 (oks 4))).map (fun t => t.panel.cols) = some (some ⟨300, 319⟩) := by decide

theorem test_panel_row_address_set :
    (runs [.panelRowAddressSet, .sendData [0x01#8, 0xDB#8, 0x01#8, 0xDF#8, 0#8]]
      (at' .ready 0#2 (oks 4))).map (fun t => t.panel.rows) = some none := by decide

/-- VM4: the frame is unknown after a rotation, even to the same index. -/
theorem test_panel_memory_access_control :
    (runs [.setPixel 0 0 0xF800#32, .panelMemoryAccessControl, .sendData [0x48#8]]
      (at' .ready 0#2 (oks 28))).map (fun t => (t.panel.fb.read 0 0, t.panel.madctl)) =
      some (none, some 0x48#8) := by decide

set_option maxRecDepth 8000 in
/-- 20_memory.md R66: whichever command byte comes, the pixel at the write position becomes unknown and its
neighbour does not. -/
theorem test_dropped_half_pixel :
    [Instr.panelColumnAddressSet, .panelRowAddressSet, .panelMemoryWrite, .panelMemoryAccessControl].all
      (fun i =>
        (runs [.setAddressWindow 0 0 1 0, .sendData [1#8, 2#8, 3#8, 4#8], .setAddressWindow 0 0 1 0,
            .sendData [5#8, 6#8, 7#8], i] (at' .ready 0#2 (oks 48))).map
          (fun t => (t.panel.fb.read 0 0, t.panel.fb.read 1 0, t.panel.half)) ==
            some (some 0x0506#16, none, none)) = true := by decide

/-! ### The host's side -/

/-- A step makes the access that completes a request; the next one runs it; the next reads STATUS. -/
theorem test_step :
    ((nextOf (step { at' .closed 2#2 [] with accesses := [.write 0x8#4 0x1F#32, .read 0x0#4] })).bind
      fun t => (nextOf (step t)).bind fun u => nextOf (step u)).map
      (fun v => (v.block.lastErr, v.readData)) = some (.none, [0x25#32]) := by decide

/-- 10_state.md R17: a payload byte written with CLOSE is not there for a later SEND_DATA. -/
theorem test_step_discards_surplus :
    (nextOf (step { at' .closed 0#2 [] with req := [0x1F#32], payload := [7#8] })).map
      (fun t => (t.req, t.payload, t.block.lastErr)) = some ([], [], .none) := by decide

/-- The step after reset runs the placed instruction (log 10). -/
theorem test_with_fetch_word :
    step (State.reset.withFetchWord 32 0x10) = exec .reset State.reset ∧
      step (State.reset.withFetchWord 64 0x0000002900000001) = exec (.sendCmd 0x29#8) State.reset ∧
      step (State.reset.withFetchWord 8 0x2C) = exec .panelMemoryWrite State.reset :=
  ⟨rfl, rfl, rfl⟩

/-- 30_encoding.md R83: a line of text, a comment, an operand out of range, an unknown mnemonic. -/
theorem test_assembler :
    (assembleLine "set_pixel -1, 0x10, 31 ; note".toList).toOption =
        some (some ⟨[0x22#32, 0x0010FFFF#32, 0x1F#32], []⟩) ∧
      (assembleLine "  ; only a note".toList).toOption = some none ∧
      (assembleLine "send_cmd 256".toList).toOption = none ∧
      (assembleLine "draw 1".toList).toOption = none := by decide

/-- 30_encoding.md R84. -/
theorem test_assembler_startup :
    (assembleLine "startup 1".toList).toOption =
      some (some ⟨[0x10#32, 0x11#32, 0x12#32, 1#32], []⟩) := by decide

/-- Why a line is refused (log 16), and the requests of two lines kept apart. -/
theorem test_assembler_refusals :
    (match assembleLine "draw abc".toList with | .error e => some e | _ => none) = some .operandForm ∧
      (match assembleLine "draw 1".toList with | .error e => some e | _ => none) =
        some .unknownMnemonic ∧
      (assembleLines 1 ["send_data 7".toList, "".toList, "close".toList]).toOption =
        some [⟨[0x02#32, 1#32], [7#8]⟩, ⟨[0x1F#32], []⟩] := by decide

/-- No LEN can hold the count (log 16). -/
theorem test_assembler_refuses_long_payload (ops : List AsmNum) (h : ops.length = 2 ^ 32) :
    assembleRequest "send_data".toList ops = .error .operandRange := by
  have h' : "send_data".toList ≠ "send_cmd".toList := by decide
  unfold assembleRequest
  rw [if_neg h', if_pos rfl, if_neg (by omega)]

/-! ### INIT_TABLE's constraints -/

/-- 41_controller.md R97 clause 1: all three kinds of register, by one entry or by three, in any order among
themselves; one kind missing, or set after the curve tables, does not do. -/
theorem test_init_table_registers :
    let before (rs : List InitRole) := [.sleepOut, .other, .pixelFormat] ++ rs ++
      [.positiveGamma, .negativeGamma, .other, .inversionOn, .displayOn]
    rolesInOrder (before [.registers [.gamma, .power, .drivingTiming]]) = true ∧
      rolesInOrder (before [.registers [.power], .registers [.drivingTiming], .registers [.gamma]]) = true ∧
      rolesInOrder (before [.registers [.power]]) = false ∧
      rolesInOrder (before [.registers [.power, .gamma]]) = false ∧
      rolesInOrder (before [.registers [.power, .gamma]] ++ [.registers [.drivingTiming]]) = false := by
  decide

/-! ### A witness for every statement that has hypotheses, one for each clause -/

theorem witness_DecodeOfEncodeIsTheInstruction :
    (Instr.sendData [0x55#8]).wf = true ∧ (Instr.sendData [0x55#8]).isRequest = true ∧
      (Instr.reserved 0x102#32 [1#32] [0#8]).wf = true ∧ Instr.panelMemoryWrite.isRequest = false := by
  decide

theorem witness_EncodeOfDecodeIsTheWords :
    decodeRequest [0x12#32, 5#32, 0x10#32] [7#8] = .complete (.setRotation 5#32) [0x10#32] [7#8] ∧
      decodeRequest [0x101#32, 0x29#32] [] = .complete (.reserved 0x101#32 [0x29#32] []) [] [] ∧
      decodeCommandByte 0x2B#8 = some .panelRowAddressSet := by decide

set_option maxRecDepth 4000 in
/-- The first and the last reserved opcode, and the two ends of a gap. -/
theorem witness_ReservedOpcodeIsIllegal :
    ∀ opc ∈ [opcode 0x00#32, opcode 0x03#32, opcode 0x0F#32, opcode 0x23#32, opcode 0xFF#32],
      opc ∉ [0x01#8, 0x02#8, 0x10#8, 0x11#8, 0x12#8, 0x13#8, 0x1F#8, 0x20#8, 0x21#8, 0x22#8] := by decide

/-- The lowest and the highest reserved bit of a header, with operands and with a payload, and those of
`CMDW`. -/
theorem witness_ReservedBitsAreIllegal :
    ([0#32, 0#32].length = operandCount (opcode 0x113#32) ∧ reservedBits 0x113#32 ≠ 0#24) ∧
      ([2#32].length = operandCount (opcode 0x80000002#32) ∧
        [0#8, 0#8].length = payloadLength 0x80000002#32 [2#32] ∧ reservedBits 0x80000002#32 ≠ 0#24) ∧
      (opcode 0x01#32 = 0x01#8 ∧ reservedBits 0x100#32 ≠ 0#24 ∧ reservedBits 0x80000000#32 ≠ 0#24) := by
  decide

theorem witness_IgnoredBitsHaveNoEffect :
    (0x80000001#32).extractLsb' 0 2 = (1#32).extractLsb' 0 2 ∧
      (0xFFFF5678#32).extractLsb' 0 16 = (0x5678#32).extractLsb' 0 16 ∧
      Instr.setRotation 4#32 ∈ [Instr.setRotation 4#32, .fillRegion 0 0 0 0 4#32, .fillScreen 4#32,
        .setPixel 0 0 4#32] := by decide

theorem witness_StepRunsTheDecodedInstruction :
    (at' .ready 0#2 []).bus = [] ∧ decodeRequest [0x1F#32] [] = .complete .close [] [] ∧
      decodeCommandByte 0x2C#8 = some .panelMemoryWrite := by decide

/-- Every kind of access, and the lowest and the highest offset that is no multiple of 4. -/
theorem witness_StepMakesTheHostAccess :
    (at' .ready 0#2 []).bus = [] ∧
      decodeRequest (at' .ready 0#2 []).req (at' .ready 0#2 []).payload = .incomplete ∧
      (at' .ready 0#2 []).accesses = [] ∧
      0x1#4 ∉ [0x0#4, 0x4#4, 0x8#4, 0xC#4] ∧ 0xF#4 ∉ [0x0#4, 0x4#4, 0x8#4, 0xC#4] := by decide

theorem witness_StepMakesTheHostAccess_each (off : BitVec 4) (w : Word) :
    let s := { at' .ready 0#2 [] with accesses := [.read off] }
    let t := { at' .ready 0#2 [] with accesses := [.write off w] }
    (s.bus = [] ∧ decodeRequest s.req s.payload = .incomplete ∧ s.accesses = [.read off]) ∧
      t.bus = [] ∧ decodeRequest t.req t.payload = .incomplete ∧ t.accesses = [.write off w] :=
  ⟨⟨rfl, rfl, rfl⟩, rfl, rfl, rfl⟩

/-- The smallest and the largest native size. -/
theorem witness_StatusAndGeometryLayout :
    (at' .ready 1#2 []).params.Valid ∧ ({ params with nativeW := 1, nativeH := 32767 } : Params).Valid := by
  decide

theorem witness_StatusNeverShowsConfiguring :
    (at' .uninitialized 0#2 []).Inv ∧ (at' .closed 0#2 []).Inv ∧ (at' .ready 3#2 []).Inv :=
  ⟨by decide, by decide, by decide⟩

theorem witness_ConstructionFailureGivesNoBlock :
    State.construct? params false true = none ∧ State.construct? params true false = none := by decide

/-- A step that runs a request, one that makes an access, and one that idles. -/
theorem witness_StepKeepsInvariant :
    ({ at' .resetting 0#2 (oks 4) with req := [0x01#32, 0x29#32] }).Inv ∧
      (nextOf (step { at' .resetting 0#2 (oks 4) with req := [0x01#32, 0x29#32] })).isSome = true ∧
      ({ at' .ready 0#2 [] with accesses := [.read 0x4#4] }).Inv ∧
      (nextOf (step { at' .ready 0#2 [] with accesses := [.read 0x4#4] })).isSome = true ∧
      (nextOf (step (at' .faulted 0#2 []))).isSome = true :=
  ⟨by decide, by decide, by decide, by decide, by decide⟩

theorem witness_TraceOnlyGrows :
    (nextOf (step { at' .closed 0#2 [] with req := [0x1F#32] })).isSome = true := by decide

theorem witness_FrameEmitsFourEvents : (at' .uninitialized 0#2 (oks 4)).answersOk 4 := by decide

/-- Each of the four failing events, with both answers to the deassert attempt. -/
theorem witness_FrameFailureTable (k : Nat) (a : Answer) :
    (at' .ready 0#2 [.fail k]).answers = .fail k :: [] ∧
      (at' .ready 0#2 [.ok, .fail k, a]).answers = .ok :: .fail k :: a :: [] ∧
      (at' .ready 0#2 [.ok, .ok, .fail k, a]).answers = .ok :: .ok :: .fail k :: a :: [] ∧
      (at' .ready 0#2 [.ok, .ok, .ok, .fail k]).answers = .ok :: .ok :: .ok :: .fail k :: [] :=
  ⟨rfl, rfl, rfl, rfl⟩

/-- Each state that permits a framer request. -/
theorem witness_SendCmdCompletes :
    ∀ l ∈ [Lifecycle.uninitialized, .resetting, .ready],
      (at' l 0#2 (oks 4)).block.state ∈ [Lifecycle.uninitialized, .resetting, .ready] ∧
        (at' l 0#2 (oks 4)).answersOk 4 := by decide

theorem witness_SendDataCompletes :
    ∀ l ∈ [Lifecycle.uninitialized, .resetting, .ready],
      (at' l 2#2 (oks 4)).block.state ∈ [Lifecycle.uninitialized, .resetting, .ready] ∧
        (at' l 2#2 (oks 4)).answersOk 4 := by decide

theorem witness_SendDataTransportFailure :
    (at' .ready 0#2 [.ok, .ok, .fail 1, .fail 0]).block.state ∈
        [Lifecycle.uninitialized, .resetting, .ready] ∧
      (at' .ready 0#2 [.ok, .ok, .fail 1, .fail 0]).answers = .ok :: .ok :: .fail 1 :: .fail 0 :: [] := by
  decide

theorem witness_EveryWriteIsFramed :
    (nextOf (exec (.sendData [1#8]) (at' .ready 0#2 (oks 4)))).isSome = true ∧
      (nextOf (exec (.sendData [1#8]) (at' .ready 0#2 [.ok, .ok, .fail 0, .fail 0]))).isSome = true := by
  decide

theorem witness_ResetCompletes :
    ∀ l ∈ [Lifecycle.uninitialized, .resetting, .ready, .faulted],
      (at' l 0#2 (oks 3)).block.state ∈ [Lifecycle.uninitialized, .resetting, .ready, .faulted] ∧
        (at' l 0#2 (oks 3)).answersOk 3 := by decide

/-- Each of the three line events. -/
theorem witness_ResetStopsAtFailingLine :
    ∀ n ∈ [0, 1, 2], n < 3 ∧
      (at' .faulted 0#2 (oks n ++ [.fail 0])).answers = List.replicate n .ok ++ .fail 0 :: [] ∧
      (at' .faulted 0#2 (oks n ++ [.fail 0])).block.state ∈
        [Lifecycle.uninitialized, .resetting, .ready, .faulted] := by decide

set_option maxRecDepth 4000 in
theorem witness_InitializeCompletes :
    (at' .resetting 0#2 (oks 44)).block.state = .resetting ∧ (at' .resetting 0#2 (oks 44)).params.Valid ∧
      (at' .resetting 0#2 (oks 44)).answersOk
        (answersOf ((at' .resetting 0#2 (oks 44)).params.initTable.flatMap entryEvents)) := by decide

/-- The premises, and a rotation word for each entry of the table. -/
theorem witness_SetRotationCompletes :
    ([0, 5, 2, 0xFFFFFFFF] : List Word).map (fun r => r.toNat % 4) = [0, 1, 2, 3] ∧
      (at' .ready 0#2 (oks 8)).block.state = .ready ∧ (at' .ready 0#2 (oks 8)).answersOk 8 ∧
      (at' .ready 0#2 (oks 8)).panel.live = true := by decide

theorem witness_FrameSizeAfterSetRotation :
    (nextOf (exec (.setRotation 3#32) (at' .ready 0#2 (oks 8)))).map (fun t => t.block.lastErr) =
        some .none ∧
      (nextOf (exec (.setRotation 2#32) (at' .ready 1#2 (oks 8)))).map (fun t => t.block.lastErr) =
        some .none := by decide

/-- InFrame in a frame of 320 by 480. -/
def frameHas (x0 y0 x1 y1 : Half) : Bool :=
  decide (0 ≤ x0.toInt ∧ x0.toInt ≤ x1.toInt ∧ x1.toInt < (320 : Nat) ∧
    0 ≤ y0.toInt ∧ y0.toInt ≤ y1.toInt ∧ y1.toInt < (480 : Nat))

/-- The smallest windows, at two corners, and the whole frame. -/
theorem witness_SetAddressWindowCompletes :
    (at' .ready 0#2 (oks 20)).block.state = .ready ∧ (at' .ready 0#2 (oks 20)).answersOk 20 ∧
      (at' .ready 0#2 (oks 20)).width = 320 ∧ (at' .ready 0#2 (oks 20)).height = 480 ∧
      frameHas 0 0 0 0 = true ∧ frameHas 0 0 319 479 = true ∧ frameHas 319 479 319 479 = true := by decide

theorem witness_WindowSequenceArmsThePanel :
    (at' .ready 0#2 []).panel.live = true ∧ (at' .ready 0#2 []).panel.half = none ∧ 0 < 65536 ∧
      65535 < 65536 := by decide

/-- One past each edge of the frame, and reversed windows. -/
theorem witness_WindowOutOfFrameIsBounds :
    (at' .ready 0#2 []).block.state = .ready ∧
      (at' .ready 0#2 []).width = 320 ∧ (at' .ready 0#2 []).height = 480 ∧
      frameHas (-1) 0 5 5 = false ∧ frameHas 0 (-1) 5 5 = false ∧ frameHas 0 0 320 5 = false ∧
      frameHas 0 0 5 480 = false ∧ frameHas 10 0 5 0 = false ∧ frameHas 0 10 0 5 = false := by decide

theorem witness_CloseReleasesEveryLine :
    ∀ l ∈ [Lifecycle.uninitialized, .resetting, .ready, .faulted],
      (at' l 0#2 [.ok, .fail 0, .ok]).block.state ≠ .closed ∧
        (at' l 0#2 [.ok, .fail 0, .ok]).answers = .ok :: .fail 0 :: .ok :: [] := by decide

theorem witness_ClosedIsFinal :
    (at' .closed 0#2 []).block.state = .closed ∧ Instr.close.isRequest = true ∧
      (Instr.reserved 3#32 [] []).isRequest = true := by decide

set_option maxRecDepth 4000 in
/-- A region inside the frame and one clipped on two sides. -/
theorem witness_FillRegionCompletes :
    (at' .ready 0#2 (oks 24)).block.state = .ready ∧
      clip 320 480 10 20 2 1 = some ⟨10, 20, 2, 1⟩ ∧ clip 320 480 (-1) (-1) 2 2 = some ⟨0, 0, 1, 1⟩ ∧
      (at' .ready 0#2 (oks 24)).width = 320 ∧ (at' .ready 0#2 (oks 24)).height = 480 ∧
      (at' .ready 0#2 (oks 24)).answersOk
        (answersOf (fillEvents (at' .ready 0#2 (oks 24)).params.chunkPixels ⟨10, 20, 2, 1⟩ 0#16)) := by decide

/-- Just off the frame on each side, and no width. -/
theorem witness_EmptyFillEmitsNothing :
    (at' .ready 0#2 []).block.state = .ready ∧ clip 320 480 320 0 1 1 = none ∧
      clip 320 480 0 480 1 1 = none ∧ clip 320 480 (-1) 0 1 1 = none ∧ clip 320 480 0 (-1) 1 1 = none ∧
      clip 320 480 0 0 0 10 = none ∧ (at' .ready 0#2 []).params.Valid := by decide

set_option maxRecDepth 4000 in
theorem witness_FillScreenCompletes :
    let s := at' .ready 0#2 (oks 24) { params with nativeW := 1, nativeH := 1 }
    s.params.Valid ∧ s.block.state = .ready ∧ (⟨0, 0, 1, 1⟩ : Rect) = ⟨0, 0, s.width, s.height⟩ ∧
      s.answersOk (answersOf (fillEvents s.params.chunkPixels ⟨0, 0, 1, 1⟩ 0#16)) := by decide

theorem witness_FillScreenIsFullFillRegion : (at' .ready 0#2 []).params.Valid := by decide

/-- The first and the last pixel. -/
theorem witness_SetPixelCompletes :
    (at' .ready 0#2 (oks 24)).block.state = .ready ∧ (at' .ready 0#2 (oks 24)).answersOk 24 ∧
      0 ≤ (0#16).toInt ∧ (319#16).toInt < (at' .ready 0#2 (oks 24)).width ∧
      (479#16).toInt < (at' .ready 0#2 (oks 24)).height := by decide

theorem witness_SetPixelIsUnitFillRegion : (at' .faulted 0#2 []).params.Valid := by decide

/-- A pixel at each corner of the frame, and a rectangle with no pixel in it. -/
theorem witness_ClipIsTheIntersection :
    clip 320 480 0 0 1 1 = some ⟨0, 0, 1, 1⟩ ∧ clip 320 480 319 479 5 5 = some ⟨319, 479, 1, 1⟩ ∧
      clip 320 480 5 5 (-3) 4 = none := by decide

set_option maxRecDepth 4000 in
/-- Chunks of one pixel, an exact multiple, and a remainder. -/
theorem witness_ChunksCoverThePixels :
    (params 1).Valid ∧ (params 2).Valid ∧ (pixelChunks 2 4 0#16).length = 2 ∧
      (pixelChunks 2 5 0#16).length = 3 ∧ [0#8, 0#8] ∈ pixelChunks 2 5 0#16 ∧
      [0#8, 0#8, 0#8, 0#8] ∈ (pixelChunks 2 5 0#16).dropLast := by decide

set_option maxRecDepth 4000 in
theorem witness_FillPaintsThePicture :
    let s := at' .ready 1#2 (oks 28) (params 2)
    s.params.Valid ∧ s.block.state = .ready ∧ s.panel.live = true ∧
      s.panel.madctl = some (madctlByte s.block.rot) ∧ s.panel.half = none ∧
      fillTarget s (.fillRegion 478 0 5 2 7#32) = some (⟨478, 0, 2, 2⟩, 7#16) ∧
      fillTarget s (.setPixel 479 319 7#32) = some (⟨479, 319, 1, 1⟩, 7#16) ∧
      fillTarget s (.fillScreen 7#32) = some (⟨0, 0, 480, 320⟩, 7#16) ∧
      s.answersOk (answersOf (fillEvents s.params.chunkPixels ⟨478, 0, 2, 2⟩ 7#16)) := by decide

set_option maxRecDepth 4000 in
/-- The last of two chunks fails. -/
theorem witness_FillStopsAtFailingChunk :
    let s := at' .ready 0#2 (oks 26 ++ [.fail 1, .ok]) (params 2)
    s.params.Valid ∧ s.block.state = .ready ∧
      fillTarget s (.fillRegion 0 0 3 1 7#32) = some (⟨0, 0, 3, 1⟩, 7#16) ∧
      (pixelChunks s.params.chunkPixels (3 * 1) 7#16)[1]? = some [0#8, 7#8] ∧
      s.answers = List.replicate (20 + 4 * 1 + 2) .ok ++ .fail 1 :: .ok :: [] := by decide

/-- A permitted and a forbidden state for each row of the table. -/
theorem witness_PermissionTableDecides :
    ∀ i ∈ [Instr.sendCmd 0#8, .sendData [], .reset, .initializePanel, .setRotation 0#32,
      .setAddressWindow 0 0 0 0, .fillRegion 0 0 0 0 0#32, .fillScreen 0#32, .setPixel 0 0 0#32],
      i.isRequest = true ∧ isReservedRow i = false ∧ Lifecycle.closed ∉ permissionTable i ∧
        (Lifecycle.ready ∈ permissionTable i ∨ Lifecycle.resetting ∈ permissionTable i) := by decide

theorem witness_PermissionTableDecides_close :
    Instr.close.isRequest = true ∧ Lifecycle.closed ∈ permissionTable .close := by decide

theorem witness_FailureEntersFaulted :
    (nextOf (exec (.sendCmd 1#8) (at' .ready 0#2 [.ok, .ok, .fail 0, .ok]))).map
        (fun t => t.block.lastErr) = some .transport ∧
      (nextOf (exec .reset (at' .faulted 0#2 [.fail 0]))).map (fun t => t.block.lastErr) =
        some .lineControl ∧
      (nextOf (exec (.setRotation 1#32) (at' .ready 0#2 (oks 7 ++ [.fail 0])))).map
        (fun t => t.block.lastErr) = some .lineControl ∧
      (nextOf (exec .initializePanel (at' .resetting 0#2 (oks 5 ++ [.fail 0, .ok]) (params 512 tableT1)))).map
        (fun t => t.block.lastErr) = some .lineControl ∧
      (nextOf (exec .close (at' .ready 0#2 [.ok, .ok, .fail 0]))).map (fun t => t.block.lastErr) =
        some .lineControl ∧ (at' .ready 0#2 []).block.lineCS ≠ .known .low := by decide

theorem witness_RejectionChangesOnlyTheResult :
    (nextOf (exec (.setPixel 0 0 0#32) (at' .faulted 0#2 []))).map (fun t => t.block.lastErr) =
        some .notPermitted ∧
      (nextOf (exec (.setAddressWindow 1 0 0 0) (at' .ready 0#2 []))).map (fun t => t.block.lastErr) =
        some .bounds ∧
      (nextOf (exec (.reserved 3#32 [] []) (at' .ready 0#2 []))).map (fun t => t.block.lastErr) =
        some .illegal := by decide

theorem witness_BoundsOnlyFromSetAddressWindow :
    Instr.isRequest (.setAddressWindow 1 0 0 0) = true ∧
      (nextOf (exec (.setAddressWindow 1 0 0 0) (at' .ready 0#2 []))).map (fun t => t.block.lastErr) =
        some .bounds := by decide

theorem witness_FaultedLeftOnlyByResetOrClose :
    (nextOf (exec .reset (at' .faulted 0#2 (oks 3)))).map (fun t => t.block.state) = some .resetting ∧
      (nextOf (exec .close (at' .faulted 0#2 (oks 3)))).map (fun t => t.block.state) = some .closed ∧
      (nextOf (exec .reset (at' .closed 0#2 []))).map (fun t => t.block.state) = some .closed := by decide

theorem witness_RotationWrittenOnlyBySetRotation :
    (nextOf (exec (.setRotation 7#32) (at' .ready 0#2 (oks 8)))).map (fun t => t.block.rot) =
        some 3#2 ∧
      (nextOf (exec .close (at' .ready 0#2 (oks 3)))).map (fun t => t.block.claimed) = some false := by
  decide

theorem witness_ReadyOnlyFromInitialize :
    (nextOf (exec .initializePanel (at' .resetting 0#2 (oks 12) (params 512 tableT1)))).map
        (fun t => t.block.state) = some .ready ∧
      (nextOf (exec .reset (at' .configuring 0#2 []))).map (fun t => t.block.state) =
        some .configuring := by decide

theorem witness_EventCountIsBounded : (at' .ready 0#2 []).params.Valid := by decide

theorem witness_LastErrIsNeverRead : (Instr.fillScreen 0#32).isRequest = true := by decide

theorem witness_ShadowsAndPanelAreNeverRead :
    Instr.reset.isRequest = true ∧ (nextOf (exec .reset (at' .ready 0#2 (oks 3)))).isSome = true := by decide

/-- A panel with a window at the corner of the frame and a half pixel, for each arm: inside the window, past
it, and with no window. -/
def streaming (cols : Option Span) (wptr : Nat) : Panel :=
  { Panel.afterReset with
    cmd := some 0x2C#8, cols := cols, rows := some ⟨479, 479⟩, madctl := some 0x48#8, wptr := wptr,
    half := some 0xF8#8 }

/-- A waiting half pixel for each case of 20_memory.md R66: inside the window, past its count, and with no
column range or no rotation's byte to place it by. -/
def halves : List Panel :=
  [streaming (some ⟨318, 319⟩) 1, streaming (some ⟨318, 319⟩) 2, streaming none 0,
    { streaming (some ⟨318, 319⟩) 1 with madctl := none }]

/-- No byte, the last incomplete range, the whole range, and the first byte too many. -/
theorem witness_PanelLatchesColumns :
    (at' .ready 0#2 []).panel.live = true ∧
      (let p := { Panel.afterReset with cmd := some 0x2A#8 }
       p.live = true ∧ p.cmd = some 0x2A#8 ∧ p.args = [] ∧ p.cols = none) ∧
      ([] : List Byte).length < 4 ∧ [0#8, 0#8, 0#8].length < 4 ∧ 5 ≤ [0#8, 0#8, 0#8, 0#8, 0#8].length ∧
      ∀ p ∈ halves, p.live = true ∧ p.cmd = some 0x2C#8 ∧ p.half ≠ none := by decide

theorem witness_PanelLatchesRows :
    (at' .ready 0#2 []).panel.live = true ∧
      (let p := { Panel.afterReset with cmd := some 0x2B#8 }
       p.live = true ∧ p.cmd = some 0x2B#8 ∧ p.args = [] ∧ p.rows = none) ∧
      [0#8, 0#8, 0#8].length < 4 ∧ 5 ≤ [0#8, 0#8, 0#8, 0#8, 0#8].length ∧
      ∀ p ∈ halves, p.live = true ∧ p.cmd = some 0x2C#8 ∧ p.half ≠ none := by decide

/-- With no half pixel, and with one waiting. -/
theorem witness_PanelMemoryWriteArms :
    (at' .ready 0#2 []).panel.live = true ∧ (at' .ready 0#2 []).panel.half = none ∧
      ∀ p ∈ halves, p.live = true ∧ p.cmd = some 0x2C#8 ∧ p.half ≠ none := by decide

theorem witness_PanelMemoryAccessControl :
    (at' .ready 0#2 []).panel.live = true ∧
      (let p := { Panel.afterReset with cmd := some 0x36#8 }
       p.live = true ∧ p.cmd = some 0x36#8 ∧ p.args = []) ∧
      ∀ p ∈ halves, p.live = true ∧ p.cmd = some 0x2C#8 ∧ p.half ≠ none := by decide

theorem witness_PanelPixelStream :
    (streaming none 0).live = true ∧ (streaming none 0).cmd = some 0x2C#8 ∧
      (streaming none 0).half = some 0xF8#8 ∧
      (streaming (some ⟨318, 319⟩) 1).cols = some ⟨318, 319⟩ ∧
      (streaming (some ⟨318, 319⟩) 1).rows = some ⟨479, 479⟩ ∧
      (streaming (some ⟨318, 319⟩) 1).madctl = some (madctlByte 0#2) ∧
      319 < frameW params 0#2 ∧ 479 < frameH params 0#2 ∧
      1 < (319 - 318 + 1) * (479 - 479 + 1) ∧ ¬2 < (319 - 318 + 1) * (479 - 479 + 1) ∧
      ({ streaming none 0 with half := none }).half = none := by decide

theorem witness_PanelPixelStream_noWindow :
    ¬∃ (xs xe ys ye : Nat) (i : BitVec 2), (streaming none 0).cols = some ⟨xs, xe⟩ ∧
      (streaming none 0).rows = some ⟨ys, ye⟩ ∧ xs ≤ xe ∧ ys ≤ ye ∧
      (streaming none 0).madctl = some (madctlByte i) ∧ xe < frameW params i ∧ ye < frameH params i := by
  rintro ⟨xs, xe, ys, ye, i, h, -⟩
  cases h

theorem witness_OtherCommandMakesContentsUnknown :
    (at' .ready 0#2 []).panel.live = true ∧ 0x29#8 ∉ [0x2A#8, 0x2B#8, 0x2C#8, 0x36#8] ∧
      0x37#8 ∉ [0x2A#8, 0x2B#8, 0x2C#8, 0x36#8] ∧ (at' .ready 0#2 []).panel.cmd = none := by decide

/-- A step that leaves the panel as it is, and the one that makes it live. -/
theorem witness_PanelLiveOnlyByCompletedReset :
    (at' .faulted 0#2 []).panel = Panel.indeterminate ∧
      (nextOf (step (at' .faulted 0#2 []))).isSome = true ∧
      (nextOf (step { at' .faulted 0#2 (oks 3) with req := [0x10#32] })).map (fun t => t.panel.live) =
        some true := by decide

theorem witness_NothingSuppliedOutlivesARequest :
    (Instr.sendData [1#8]).wf = true ∧ (Instr.sendData [1#8]).isRequest = true ∧
      (Instr.reserved 0x102#32 [0#32] []).wf = true ∧ (at' .ready 0#2 []).bus = [] := by decide

end Sys2Proof.Tests
end

section
/-!
PROOFS. The pixel stream of 20_memory.md R60: which byte and which window the panel reads, and what a whole
pixel does in each of R60's arms.
-/

namespace Sys2Proof.Machine

/-! ### The window of the stream -/

/-- MADCTL_TABLE has no repeated entry (30_encoding.md R80), so a byte gives back its index. -/
theorem madctlIndex_eq_some_iff {b : Byte} {i : BitVec 2} : madctlIndex b = some i ↔ b = madctlByte i := by
  constructor
  · intro h
    unfold madctlIndex at h
    repeat' split at h
    all_goals cases h <;> assumption
  · rintro rfl
    revert i
    decide

theorem Panel.rotation_eq_some_iff {p : Panel} {i : BitVec 2} :
    p.rotation = some i ↔ p.madctl = some (madctlByte i) := by
  simp [Panel.rotation, Option.bind_eq_some_iff, madctlIndex_eq_some_iff]

theorem Panel.ranges_eq_some {p : Panel} {w : Window} (hc : p.cols = some w.cols) (hr : p.rows = some w.rows)
    (hcol : w.cols.first ≤ w.cols.last) (hrow : w.rows.first ≤ w.rows.last) : p.ranges = some w := by
  simp [Panel.ranges, hc, hr, hcol, hrow]

/-- The converse of `Panel.window_spec`: ranges that lie in the frame of the panel's byte are the window. -/
theorem Panel.window_eq_some {cfg : Params} {p : Panel} {w : Window} {i : BitVec 2} (hc : p.cols = some w.cols)
    (hr : p.rows = some w.rows) (hcol : w.cols.first ≤ w.cols.last) (hrow : w.rows.first ≤ w.rows.last)
    (hi : p.rotation = some i) (hW : w.cols.last < frameW cfg i) (hH : w.rows.last < frameH cfg i) :
    p.window cfg = some w := by
  simp [Panel.window, Panel.ranges_eq_some hc hr hcol hrow, hi, hW, hH]

/-! ### A byte and a pixel of the stream -/

theorem Panel.readBytes_stream {cfg : Params} {p : Panel} (hl : p.live = true) (hc : p.cmd = some 0x2C#8)
    (b : Byte) : p.readBytes cfg .high [b] = p.streamData cfg b := by
  rw [Panel.readBytes_cons, Panel.readBytes_nil, Panel.readByte_settle]
  simp [Panel.readByte, Panel.data, hl, hc]

theorem Panel.streamData_first {cfg : Params} {p : Panel} (h : p.half = none) (b : Byte) :
    p.streamData cfg b = { p with half := some b } := by
  simp [Panel.streamData, h]

theorem Panel.streamData_second {cfg : Params} {p : Panel} {hb : Byte} (h : p.half = some hb) (b : Byte) :
    p.streamData cfg b = p.pixel cfg (fromBigEndian hb b) := by
  simp [Panel.streamData, h]

/-- The memory after a pixel: the write position takes it inside the window, and past the window's last
pixel the window is forgotten (20_memory.md R60, R61). -/
def Panel.fbAfterPixel (w : Window) (v : Half) (p : Panel) : Memory :=
  if p.wptr < w.pixels then p.fb.write (w.column p.wptr) (w.row p.wptr) v
  else p.fb.forgetWindow w.cols w.rows

theorem Panel.pixel_of_window {cfg : Params} {p : Panel} {w : Window} (h : p.window cfg = some w) (v : Half) :
    p.pixel cfg v = { p with half := none, fb := p.fbAfterPixel w v, wptr := p.wptr + 1 } := by
  by_cases hn : p.wptr < w.pixels <;> simp [Panel.pixel, Panel.fbAfterPixel, h, hn]

theorem Panel.pixel_of_no_window {cfg : Params} {p : Panel} (h : p.window cfg = none) (v : Half) :
    p.pixel cfg v = p.contentsUnknown := by
  simp [Panel.pixel, h]

theorem Memory.read_write (m : Memory) (x y : Nat) (v : Half) (x' y' : Nat) :
    (m.write x y v).read x' y' = if x' = x ∧ y' = y then some v else m.read x' y' := by
  by_cases h : x' = x ∧ y' = y
  · obtain ⟨rfl, rfl⟩ := h
    simp [Memory.read_write_same]
  · rw [Memory.read_write_other m v h, if_neg h]

theorem Panel.read_fbAfterPixel (w : Window) (v : Half) (p : Panel) (x y : Nat) :
    (p.fbAfterPixel w v).read x y =
      if p.wptr < w.pixels then
        if x = w.column p.wptr ∧ y = w.row p.wptr then some v else p.fb.read x y
      else if w.cols.first ≤ x ∧ x ≤ w.cols.last ∧ w.rows.first ≤ y ∧ y ≤ w.rows.last then none
      else p.fb.read x y := by
  by_cases hn : p.wptr < w.pixels
  · simp only [Panel.fbAfterPixel, hn, if_true, Memory.read_write]
  · simp only [Panel.fbAfterPixel, hn, if_false, Memory.read_forgetWindow]

/-- Settles O56: the byte read is a byte of the stream, and R60's arms are the cases of the panel's window. -/
theorem panelPixelStream : Obligations.PanelPixelStream := by
  intro cfg p b hl hc
  rw [Panel.readBytes_stream hl hc]
  refine ⟨fun hh => Panel.streamData_first hh b, fun hb hh => ?_⟩
  rw [Panel.streamData_second hh]
  constructor
  · intro xs xe ys ye i hcols hrows hx hy hi hW hH
    have hw : p.window cfg = some ⟨⟨xs, xe⟩, ⟨ys, ye⟩⟩ :=
      Panel.window_eq_some hcols hrows hx hy (Panel.rotation_eq_some_iff.2 hi) hW hH
    rw [Panel.pixel_of_window hw]
    exact ⟨rfl, rfl, rfl, rfl, rfl, rfl, Panel.read_fbAfterPixel _ _ p⟩
  · intro hno
    cases hw : p.window cfg with
    | none => rw [Panel.pixel_of_no_window hw, Panel.contentsUnknown, hl]
    | some w =>
      obtain ⟨hcols, hrows, hx, hy, i, hi, hW, hH⟩ := Panel.window_spec hw
      exact absurd ⟨_, _, _, _, i, hcols, hrows, hx, hy, Panel.rotation_eq_some_iff.1 hi, hW, hH⟩ hno

end Sys2Proof.Machine
end

section
/-!
PROOFS. The ignored bits of 30_encoding.md R74: COLW and ROTW act only through the colour and the rotation
index they hold, and no request outside the reserved row ends with ILLEGAL.
-/

namespace Sys2Proof.Machine

/-! ### The operand words act through their fields -/

theorem exec_setRotation_congr {r r' : Word} (h : rotationIndex r = rotationIndex r') (s : State) :
    exec (.setRotation r) s = exec (.setRotation r') s := by
  simp only [exec, execSetRotation, h]

theorem exec_fillRegion_congr {c c' : Word} (h : colour16 c = colour16 c') (x y w ht : Half) (s : State) :
    exec (.fillRegion x y w ht c) s = exec (.fillRegion x y w ht c') s := by
  simp only [exec, execFillRegion, h]

theorem exec_fillScreen_congr {c c' : Word} (h : colour16 c = colour16 c') (s : State) :
    exec (.fillScreen c) s = exec (.fillScreen c') s := by
  simp only [exec, execFillScreen, h]

theorem exec_setPixel_congr {c c' : Word} (h : colour16 c = colour16 c') (x y : Half) (s : State) :
    exec (.setPixel x y c) s = exec (.setPixel x y c') s := by
  simp only [exec, execSetPixel, h]

/-! ### ILLEGAL belongs to the reserved row -/

theorem RequestEnds.lastErr_ne_illegal {i : Instr} {permitted inBounds : Prop} {s t : State}
    (h : RequestEnds i permitted inBounds s t) : t.block.lastErr ≠ .illegal := by
  cases h with
  | notPermitted h => simp
  | outOfBounds h h' => simp
  | failed t h h' => rcases h'.err with he | he <;> simp [he]
  | completed t h h' => simp [h'.err]

/-- Only a reserved request is ILLEGAL (60_exceptions.md R129). -/
theorem exec_lastErr_ne_illegal {i : Instr} (hr : i.isRequest = true) (hres : isReservedRow i = false)
    (s : State) : ∃ t, exec i s = .next t ∧ t.block.lastErr ≠ .illegal := by
  by_cases hc : i = .close
  · subst hc
    rcases exec_close s with ⟨-, he⟩ | ⟨-, t, he, -, -, -, -, herr, -⟩
    · exact ⟨_, he, by simp⟩
    · exact ⟨t, he, by rcases herr with h | h <;> simp [h]⟩
  · obtain ⟨t, he, hends⟩ := exec_ends hr hres hc s
    exact ⟨t, he, hends.lastErr_ne_illegal⟩

/-- Settles O6: equal fields give equal requests, the decoder takes the operand word whole, and none of the
four requests is in the reserved row. -/
theorem ignoredBitsHaveNoEffect : Obligations.IgnoredBitsHaveNoEffect := by
  refine ⟨fun r r' s h => exec_setRotation_congr h s, fun c c' x y w ht s h => ?_, fun v xy wh => ?_,
    fun v x y w ht s i hi => ?_⟩
  · exact ⟨exec_fillRegion_congr h x y w ht s, exec_fillScreen_congr h s, exec_setPixel_congr h x y s⟩
  · exact ⟨rfl, rfl, rfl, rfl⟩
  · obtain ⟨hreq, hrow⟩ : i.isRequest = true ∧ isReservedRow i = false := by
      simp only [List.mem_cons, List.not_mem_nil, or_false] at hi
      rcases hi with rfl | rfl | rfl | rfl <;> exact ⟨rfl, rfl⟩
    exact exec_lastErr_ne_illegal hreq hrow s

end Sys2Proof.Machine
end

section
/-!
PROOFS. The Framer's transaction when every answer is OK (40_framer.md R88).
-/

namespace Sys2Proof.Machine

/-- A completed transaction asks for its four answers and carries the rest of the state over. -/
theorem frameDone_carried (dc : Level) (bs : List Byte) (s : State) : Carried 4 s (frameDone dc bs s) :=
  have hquiet := frameDone_quiet dc bs s
  ⟨hquiet.params, rfl, rfl, hquiet.bus, hquiet.accesses, hquiet.req, hquiet.payload, hquiet.readData⟩

/-- Settles O16: four OK answers end the transaction in `frameDone`, whose trace is extended by `frameEvents`
for either level and any bytes, and whose line shadows are those of the two lines driven. -/
theorem frameEmitsFourEvents : Obligations.FrameEmitsFourEvents := by
  intro dc bs s hok
  have htrace : (frameDone dc bs s).trace = s.trace ++ frameEvents dc bs := rfl
  exact ⟨frameDone dc bs s, frame_ok hok, htrace, rfl, frameDone_carried dc bs s⟩

end Sys2Proof.Machine
end

section
/-!
PROOFS. The empty fill of 42_pixel_fill.md R120: when the clip of R114 is EMPTY, and what a request whose
pseudocode emits nothing ends in.
-/

namespace Sys2Proof.Machine

/-! ### The frame's size -/

theorem State.width_pos {s : State} (h : s.params.Valid) : 0 < s.width := by
  obtain ⟨hw, -, hh, -⟩ := h
  unfold State.width frameW
  split
  · exact hw
  · exact hh

theorem State.height_pos {s : State} (h : s.params.Valid) : 0 < s.height := by
  obtain ⟨hw, -, hh, -⟩ := h
  unfold State.height frameH
  split
  · exact hh
  · exact hw

/-! ### The clip -/

/-- A clip is EMPTY when one of its two sides is (42_pixel_fill.md R114). -/
theorem clip_eq_none_iff {fw fh : Nat} {x y w h : Int} :
    clip fw fh x y w h = none ↔ min (x + w) fw ≤ max x 0 ∨ min (y + h) fh ≤ max y 0 := by
  simp only [clip, ite_eq_left_iff, reduceCtorEq, imp_false, not_not, sub_nonpos]

/-- One pixel is clipped away exactly when SET_PIXEL's own test finds it outside the frame
(42_pixel_fill.md R119). -/
theorem clip_pixel_eq_none_iff {fw fh : Nat} {x y : Int} :
    clip fw fh x y 1 1 = none ↔ ¬(0 ≤ x ∧ x < fw ∧ 0 ≤ y ∧ y < fh) := by
  rw [clip_eq_none_iff]
  omega

/-- The whole of a frame that has pixels is not clipped. -/
theorem clip_frame {fw fh : Nat} (hw : 0 < fw) (hh : 0 < fh) :
    clip fw fh 0 0 fw fh = some ⟨0, 0, fw, fh⟩ := by
  have hside : ¬((fw : Int) ≤ 0 ∨ (fh : Int) ≤ 0) := by omega
  simpa [clip] using hside

/-! ### Requests that emit nothing -/

theorem fillRegionBody_of_clip_none {x y w h : Int} {s : State}
    (hempty : clip s.width s.height x y w h = none) (c : Half) : fillRegionBody x y w h c s = .done s := by
  simp [fillRegionBody, hempty]

theorem setPixelBody_of_clip_none {x y : Int} {s : State} (hempty : clip s.width s.height x y 1 1 = none)
    (c : Half) : setPixelBody x y c s = .done s :=
  if_neg (clip_pixel_eq_none_iff.1 hempty)

/-- In `Ready` a request without a bounds check runs, and its end leaves the panel as it is
(60_exceptions.md R128, 20_memory.md R56). -/
theorem request_of_ready {s : State} (hready : s.block.state = .ready) (body : State → Run) :
    request readyOnly noBounds body s = finish (body s) := by
  simp [request, readyOnly, noBounds, endRequest, hready]

/-- In `Ready` pseudocode that does nothing writes S.LAST_ERR and nothing else. -/
theorem request_of_done {s : State} {body : State → Run} (hready : s.block.state = .ready)
    (hbody : body s = .done s) : request readyOnly noBounds body s = s.setErr .none := by
  rw [request_of_ready hready, hbody, finish]

/-- Settles O33: both requests' pseudocode is then a no-op, SET_PIXEL's because its test is the clip of one
pixel; a valid frame has a pixel, so its whole is not clipped away. -/
theorem emptyFillEmitsNothing : Obligations.EmptyFillEmitsNothing := by
  refine ⟨fun x y w h color s hready hempty => ?_, fun x y color s hready hempty => ?_, fun s hvalid => ?_⟩
  · exact congrArg Host.Outcome.next
      (request_of_done hready (fillRegionBody_of_clip_none hempty (colour16 color)))
  · exact congrArg Host.Outcome.next
      (request_of_done hready (setPixelBody_of_clip_none hempty (colour16 color)))
  · rw [clip_frame (State.width_pos hvalid) (State.height_pos hvalid)]
    exact Option.some_ne_none _

end Sys2Proof.Machine
end

section
/-!
PROOFS. The bounds check of SET_ADDRESS_WINDOW (41_controller.md R104) and the request it rejects
(60_exceptions.md R130, R136).
-/

namespace Sys2Proof.Machine

/-- The bounds check fails exactly when InFrame of R104 does. -/
theorem windowInFrame_eq_false_iff {x0 y0 x1 y1 : Half} {s : State} :
    windowInFrame x0 y0 x1 y1 s = false ↔
      ¬(0 ≤ x0.toInt ∧ x0.toInt ≤ x1.toInt ∧ x1.toInt < s.width ∧
        0 ≤ y0.toInt ∧ y0.toInt ≤ y1.toInt ∧ y1.toInt < s.height) :=
  decide_eq_false_iff_not

/-- A request that is permitted and fails its bounds check never runs its pseudocode
(60_exceptions.md R135). -/
theorem request_of_outOfBounds {permitted : Lifecycle → Bool} {inBounds : State → Bool} {s : State}
    (hperm : permitted s.block.state = true) (hbounds : inBounds s = false) (body : State → Run) :
    request permitted inBounds body s = s.setErr .bounds := by
  simp [request, hperm, hbounds]

/-- Settles O29: `Ready` permits the request, so its failed bounds check alone decides the outcome. -/
theorem windowOutOfFrameIsBounds : Obligations.WindowOutOfFrameIsBounds := by
  intro x0 y0 x1 y1 s hready hout
  have hperm : readyOnly s.block.state = true := by rw [hready, readyOnly]
  have hbounds : windowInFrame x0 y0 x1 y1 s = false := windowInFrame_eq_false_iff.2 hout
  exact congrArg Host.Outcome.next (request_of_outOfBounds hperm hbounds _)

end Sys2Proof.Machine
end

section
/-!
PROOFS. The two outcomes of a construction (70_reset_and_hazards.md R147, R148).
-/

namespace Sys2Proof.Machine

/-- Construction yields no state exactly when one of its two steps fails. -/
theorem State.construct?_eq_none_iff {p : Params} {claimsOk openOk : Bool} :
    State.construct? p claimsOk openOk = none ↔ claimsOk = false ∨ openOk = false := by
  rw [State.construct?, ite_eq_right_iff, ← Bool.and_eq_false_iff]
  simp only [Option.some_ne_none, imp_false, Bool.not_eq_true]

/-- Settles O12: a failure of either step is what the absence of a state means. -/
theorem constructionFailureGivesNoBlock : Obligations.ConstructionFailureGivesNoBlock :=
  fun _ _ _ hfail => State.construct?_eq_none_iff.2 hfail

end Sys2Proof.Machine
end

section
/-!
PROOFS. The decoder and the encoder are inverse (30_encoding.md sections 1 and 2): a request is taken from the
front of the streams by its lengths, and the words it is made of and the instruction determine each other.
-/

namespace Sys2Proof

/-! ### The lengths of a request -/

/-- Every instruction has the lengths of 30_encoding.md R67 and R71. -/
theorem Laws.Lengths.statement (i : Instr) : Statement i := by
  cases i with
  | sendCmd cmd => exact sendCmd cmd
  | sendData payload => exact sendData payload
  | reset => exact reset
  | initializePanel => exact initializePanel
  | setRotation r => exact setRotation r
  | setAddressWindow x0 y0 x1 y1 => exact setAddressWindow x0 y0 x1 y1
  | close => exact close
  | fillRegion x y w h color => exact fillRegion x y w h color
  | fillScreen color => exact fillScreen color
  | setPixel x y color => exact setPixel x y color
  | reserved header operands payload => exact reserved header operands payload
  | panelColumnAddressSet => exact panelColumnAddressSet
  | panelRowAddressSet => exact panelRowAddressSet
  | panelMemoryWrite => exact panelMemoryWrite
  | panelMemoryAccessControl => exact panelMemoryAccessControl

/-! ### The front of the streams -/

/-- A header with its operand words and its payload is taken whole, and what follows is left over. -/
theorem decodeRequest_append {h : Word} {operands : List Word} {payload : List Byte}
    (hops : operands.length = operandCount (opcode h)) (hpay : payload.length = payloadLength h operands)
    (ws : List Word) (bs : List Byte) :
    decodeRequest (h :: (operands ++ ws)) (payload ++ bs) =
      .complete (decodeWhole h operands payload) ws bs := by
  simp [decodeRequest, ← hops, ← hpay]

/-- What is taken from the streams is a header with its operand words and its payload. -/
theorem decodeRequest_eq_complete {ws ws' : List Word} {bs bs' : List Byte} {i : Instr}
    (hdec : decodeRequest ws bs = .complete i ws' bs') :
    ∃ h operands payload, operands.length = operandCount (opcode h) ∧
      payload.length = payloadLength h operands ∧ ws = h :: (operands ++ ws') ∧ bs = payload ++ bs' ∧
      i = decodeWhole h operands payload := by
  cases ws with
  | nil => cases hdec
  | cons h rest =>
    simp only [decodeRequest] at hdec
    split at hdec
    · cases hdec
    next hops =>
      split at hdec
      · cases hdec
      next hpay =>
        cases hdec
        refine ⟨h, _, _, ?_, ?_, ?_, ?_, rfl⟩
        · exact List.length_take_of_le (Nat.not_lt.1 hops)
        · exact List.length_take_of_le (Nat.not_lt.1 hpay)
        · rw [List.take_append_drop]
        · rw [List.take_append_drop]

/-! ### The words of a request and the instruction -/

/-- An ILLEGAL request is in the reserved row (60_exceptions.md R129). -/
theorem decodeWhole_of_illegal {h : Word} {operands : List Word} (hill : illegalWords h operands = true)
    (payload : List Byte) : decodeWhole h operands payload = .reserved h operands payload := by
  simp only [illegalWords, Bool.or_eq_true, Bool.not_eq_true', Bool.and_eq_true, bne_iff_ne, beq_iff_eq] at hill
  rcases hill with (hopc | hbits) | ⟨hopc, hbits⟩
  · simp only [List.contains_eq_mem, decide_eq_false_iff_not, knownOpcodes, List.mem_cons, List.not_mem_nil,
      or_false, not_or] at hopc
    simp [decodeWhole, hopc]
  · simp [decodeWhole, hbits]
  · have hbits' : ¬reservedBits (operands[0]?.getD 0#32) = 0#24 := hbits
    simp [decodeWhole, hopc, hbits']

/-- A well-formed request is read back from its header, its operand words and its payload. -/
theorem decodeWhole_encode {i : Instr} {h : Word} {operands : List Word} (hwf : i.wf = true)
    (hreq : i.isRequest = true) (henc : encode i = h :: operands) :
    decodeWhole h operands (encodePayload i) = i := by
  cases i with
  | reserved header ops payload =>
    cases henc
    simp only [Instr.wf, Bool.and_eq_true] at hwf
    exact decodeWhole_of_illegal hwf.1.1 payload
  | panelColumnAddressSet => cases hreq
  | panelRowAddressSet => cases hreq
  | panelMemoryWrite => cases hreq
  | panelMemoryAccessControl => cases hreq
  | sendCmd cmd =>
    cases henc
    simp [decodeWhole, show opcode 1#32 = 1#8 from rfl, show reservedBits 1#32 = 0#24 from rfl]
  | _ =>
    cases henc
    simp [decodeWhole, encodePayload, opcode, reservedBits]

/-- A request that is not ILLEGAL has a header that is its opcode byte, one of the known ones. -/
theorem header_of_legal {h : Word} {operands : List Word} (hill : illegalWords h operands = false) :
    (∃ b ∈ knownOpcodes, h = b.setWidth 32) ∧
      (opcode h = 0x01#8 → reservedBits (operands.getD 0 0#32) = 0#24) := by
  simp only [illegalWords, Bool.or_eq_false_iff, Bool.not_eq_false', Bool.and_eq_false_iff, bne_eq_false_iff_eq,
    beq_eq_false_iff_ne] at hill
  obtain ⟨⟨hopc, hbits⟩, hcmd⟩ := hill
  exact ⟨⟨opcode h, List.contains_iff_mem.1 hopc, (setWidth_opcode hbits).symm⟩,
    fun h1 => hcmd.resolve_left fun hne => hne h1⟩

/-- Operand words in the number an opcode fixes, one by one. -/
theorem operands_of_length {operands : List Word} :
    (operands.length = 0 → operands = []) ∧ (operands.length = 1 → ∃ a, operands = [a]) ∧
      (operands.length = 2 → ∃ a b, operands = [a, b]) ∧
      (operands.length = 3 → ∃ a b c, operands = [a, b, c]) :=
  ⟨List.length_eq_zero_iff.1, List.length_eq_one_iff.1, List.length_eq_two.1, List.length_eq_three.1⟩

/-- What the decoder makes of a whole request is well formed and has the request's words and bytes. -/
theorem encode_decodeWhole {h : Word} {operands : List Word} {payload : List Byte}
    (hops : operands.length = operandCount (opcode h)) (hpay : payload.length = payloadLength h operands) :
    (decodeWhole h operands payload).wf = true ∧ (decodeWhole h operands payload).isRequest = true ∧
      encode (decodeWhole h operands payload) = h :: operands ∧
      encodePayload (decodeWhole h operands payload) = payload := by
  cases hill : illegalWords h operands with
  | true =>
    rw [decodeWhole_of_illegal hill]
    exact ⟨by simp [Instr.wf, hill, hops, hpay], rfl, rfl, rfl⟩
  | false =>
    obtain ⟨⟨b, hb, rfl⟩, hcmd⟩ := header_of_legal hill
    obtain ⟨h0, h1, h2, h3⟩ := operands_of_length (operands := operands)
    rw [opcode_setWidth] at hops hcmd
    simp only [payloadLength, opcode_setWidth] at hpay
    simp only [decodeWhole, reservedBits_setWidth, opcode_setWidth]
    simp only [knownOpcodes, List.mem_cons, List.not_mem_nil, or_false] at hb
    rcases hb with rfl | rfl | rfl | rfl | rfl | rfl | rfl | rfl | rfl | rfl
    case inr.inl =>
      obtain ⟨a, rfl⟩ := h1 hops
      have hlen : payload.length = a.toNat := hpay
      simp [encode, encodePayload, Instr.wf, Instr.isRequest, hlen, a.isLt]
    all_goals obtain rfl : payload = [] := List.length_eq_zero_iff.1 hpay
    · obtain ⟨a, rfl⟩ := h1 hops
      have hbits : reservedBits a = 0#24 := hcmd rfl
      simp [hbits, setWidth_opcode hbits, encode, encodePayload, Instr.wf, Instr.isRequest]
    · simp [h0 hops, encode, encodePayload, Instr.wf, Instr.isRequest]
    · simp [h0 hops, encode, encodePayload, Instr.wf, Instr.isRequest]
    · obtain ⟨a, rfl⟩ := h1 hops
      simp [encode, encodePayload, Instr.wf, Instr.isRequest]
    · obtain ⟨a, b, rfl⟩ := h2 hops
      simp [encode, encodePayload, Instr.wf, Instr.isRequest]
    · simp [h0 hops, encode, encodePayload, Instr.wf, Instr.isRequest]
    · obtain ⟨a, b, c, rfl⟩ := h3 hops
      simp [encode, encodePayload, Instr.wf, Instr.isRequest]
    · obtain ⟨a, rfl⟩ := h1 hops
      simp [encode, encodePayload, Instr.wf, Instr.isRequest]
    · obtain ⟨a, b, rfl⟩ := h2 hops
      simp [encode, encodePayload, Instr.wf, Instr.isRequest]

/-- Settles O1: a request's lengths are those its header fixes, so it is taken whole, and its words give it
back; a panel command has its byte in the table. -/
theorem decodeOfEncodeIsTheInstruction : Obligations.DecodeOfEncodeIsTheInstruction := by
  refine ⟨fun i ws bs hwf hreq => ?_, fun i hreq => ?_⟩
  · obtain ⟨-, h, operands, henc, hops, hpay⟩ := (Laws.Lengths.statement i hwf).1 hreq
    rw [henc, List.cons_append, decodeRequest_append hops hpay, decodeWhole_encode hwf hreq henc]
  · cases i with
    | panelColumnAddressSet => exact ⟨_, rfl, rfl⟩
    | panelRowAddressSet => exact ⟨_, rfl, rfl⟩
    | panelMemoryWrite => exact ⟨_, rfl, rfl⟩
    | panelMemoryAccessControl => exact ⟨_, rfl, rfl⟩
    | _ => cases hreq

/-- Only the four bytes of 30_encoding.md R79 decode to a panel command, each to its own. -/
theorem encodeCommandByte_of_decode {b : Byte} {i : Instr} (hdec : decodeCommandByte b = some i) :
    encodeCommandByte i = some b := by
  unfold decodeCommandByte at hdec
  repeat' split at hdec
  all_goals cases hdec <;> subst b <;> rfl

/-- Settles O2: what is taken from the streams is a whole request, and its instruction has just its words. -/
theorem encodeOfDecodeIsTheWords : Obligations.EncodeOfDecodeIsTheWords := by
  refine ⟨fun ws bs i ws' bs' hdec => ?_, fun b i hdec => encodeCommandByte_of_decode hdec⟩
  obtain ⟨h, operands, payload, hops, hpay, rfl, rfl, rfl⟩ := decodeRequest_eq_complete hdec
  obtain ⟨hwf, hreq, henc, hencp⟩ := encode_decodeWhole hops hpay
  exact ⟨hwf, hreq, by rw [henc, List.cons_append], by rw [hencp]⟩

/-- Settles O3: the decoder computes each of the examples. -/
theorem encodingExamplesDecode : Obligations.EncodingExamplesDecode := by
  unfold Obligations.EncodingExamplesDecode
  decide

/-! ### The reserved row -/

/-- An ILLEGAL request is taken with its full length, as one of the reserved row. -/
theorem decodeRequest_of_illegal {h : Word} {operands : List Word} {payload : List Byte}
    (hops : operands.length = operandCount (opcode h)) (hpay : payload.length = payloadLength h operands)
    (hill : illegalWords h operands = true) (ws : List Word) (bs : List Byte) :
    decodeRequest (h :: (operands ++ ws)) (payload ++ bs) = .complete (.reserved h operands payload) ws bs := by
  rw [decodeRequest_append hops hpay, decodeWhole_of_illegal hill]

/-- A reserved opcode takes no operand words and no payload (30_encoding.md R71, R72). -/
theorem lengths_of_reserved_opcode {h : Word} (hopc : opcode h ∉ knownOpcodes) :
    operandCount (opcode h) = 0 ∧ payloadLength h [] = 0 := by
  simp only [knownOpcodes, List.mem_cons, List.not_mem_nil, or_false, not_or] at hopc
  simp [operandCount, payloadLength, hopc]

/-- Settles O4: an unknown opcode is a cause of ILLEGAL on its own, and its request is one word long. -/
theorem reservedOpcodeIsIllegal : Obligations.ReservedOpcodeIsIllegal := by
  intro h ws bs s hopc
  have hill : illegalWords h [] = true := by
    have hunknown : knownOpcodes.contains (opcode h) = false := by
      rw [List.contains_eq_mem, decide_eq_false_iff_not]
      exact hopc
    simp only [illegalWords, hunknown, Bool.not_false, Bool.true_or]
  obtain ⟨hops, hpay⟩ := lengths_of_reserved_opcode hopc
  exact ⟨decodeRequest_of_illegal (operands := []) (payload := []) hops.symm hpay.symm hill ws bs, rfl⟩

/-- Settles O5: either cause makes the request ILLEGAL, and its lengths are still those of its header. -/
theorem reservedBitsAreIllegal : Obligations.ReservedBitsAreIllegal := by
  intro h operands payload ws bs s hops hpay hbits
  have hill : illegalWords h operands = true := by
    simp only [illegalWords, Bool.or_eq_true, Bool.and_eq_true, beq_iff_eq, bne_iff_ne]
    rcases hbits with hbits | hbits
    · exact .inl (.inr hbits)
    · exact .inr hbits
  exact ⟨decodeRequest_of_illegal hops hpay hill ws bs, rfl⟩

end Sys2Proof
end

section
/-!
PROOFS. A 16-bit value on the bus (30_encoding.md R81, R82).
-/

namespace Sys2Proof.Machine

@[simp] theorem hiByte_toNat (v : Half) : (hiByte v).toNat = v.toNat / 256 := by
  have := v.isLt
  simp [hiByte, Nat.shiftRight_eq_div_pow]
  omega

@[simp] theorem loByte_toNat (v : Half) : (loByte v).toNat = v.toNat % 256 := by
  simp [loByte]

/-- The two bytes of a value give it back. -/
@[simp] theorem fromBigEndian_bytes (v : Half) : fromBigEndian (hiByte v) (loByte v) = v := by
  have hlo := (loByte v).isLt
  apply BitVec.eq_of_toNat_eq
  rw [fromBigEndian, BitVec.toNat_append, ← Nat.shiftLeft_add_eq_or_of_lt hlo, Nat.shiftLeft_eq]
  simp only [hiByte_toNat, loByte_toNat]
  omega

/-- Settles O59: the two bytes are the quotient and the remainder by 256, the quotient first. -/
theorem busIsBigEndian : Obligations.BusIsBigEndian :=
  ⟨fun v => ⟨hiByte v, loByte v, rfl, fromBigEndian_bytes v, hiByte_toNat v, loByte_toNat v⟩, rfl, rfl, rfl⟩

end Sys2Proof.Machine
end

section
/-!
PROOFS. One step of the machine (20_memory.md section 1): what it takes next, and the host's register accesses.
-/

namespace Sys2Proof.Machine

/-! ### What a step takes -/

/-- A request that is there runs, with nothing left of what the host supplied. -/
theorem step_of_request {s : State} {i : Instr} {ws : List Word} {bs : List Byte} (hbus : s.bus = [])
    (hdec : decodeRequest s.req s.payload = .complete i ws bs) : step s = exec i (clearSupply s) := by
  simp [step, fetch, hbus, hdec]

/-- A panel command byte on the bus runs as its instruction. -/
theorem step_of_busCommand {s : State} {b : Byte} {rest : List BusByte} {i : Instr}
    (hbus : s.bus = ⟨.low, b⟩ :: rest) (hdec : decodeCommandByte b = some i) :
    step s = exec i { s with bus := rest } := by
  simp [step, fetch, hbus, hdec]

/-- With no whole request waiting the host's next access is made. -/
theorem step_of_access {s : State} {a : HostAccess} {rest : List HostAccess} (hbus : s.bus = [])
    (hdec : decodeRequest s.req s.payload = .incomplete) (hacc : s.accesses = a :: rest) :
    step s = hostAccess a { s with accesses := rest } := by
  simp [step, fetch, hbus, hdec, hacc]

/-- With no access to make the machine idles. -/
theorem step_of_idle {s : State} (hbus : s.bus = []) (hdec : decodeRequest s.req s.payload = .incomplete)
    (hacc : s.accesses = []) : step s = .next s := by
  simp [step, fetch, hbus, hdec, hacc]

/-- Everything a step can do with the bus idle: run a request, make an access, or idle. -/
theorem step_cases_of_idle_bus {s : State} (hbus : s.bus = []) :
    (∃ i ws bs, decodeRequest s.req s.payload = .complete i ws bs ∧ step s = exec i (clearSupply s)) ∨
      (∃ a rest, step s = hostAccess a { s with accesses := rest }) ∨ step s = .next s := by
  cases hdec : decodeRequest s.req s.payload with
  | complete i ws bs => exact .inl ⟨i, ws, bs, rfl, step_of_request hbus hdec⟩
  | incomplete =>
    cases hacc : s.accesses with
    | cons a rest => exact .inr (.inl ⟨a, rest, step_of_access hbus hdec hacc⟩)
    | nil => exact .inr (.inr (step_of_idle hbus hdec hacc))

/-- Everything a step can do with a byte on the bus: run its instruction, or let the panel read it. -/
theorem step_cases_of_busByte {s : State} {b : BusByte} {rest : List BusByte} (hbus : s.bus = b :: rest) :
    (∃ i, decodeCommandByte b.byte = some i ∧ step s = exec i { s with bus := rest }) ∨
      step s = .next (readBusByte b { s with bus := rest }) := by
  obtain ⟨dc, byte⟩ := b
  cases dc with
  | high => exact .inr (by simp [step, fetch, hbus])
  | low =>
    cases hdec : decodeCommandByte byte with
    | some i => exact .inl ⟨i, rfl, step_of_busCommand hbus hdec⟩
    | none => exact .inr (by simp [step, fetch, hbus, hdec])

/-- Settles O7: the two arms of the fetch that yield an instruction. -/
theorem stepRunsTheDecodedInstruction : Obligations.StepRunsTheDecodedInstruction :=
  ⟨fun _ _ _ _ hbus hdec => step_of_request hbus hdec, fun _ _ _ _ hbus hdec => step_of_busCommand hbus hdec⟩

/-! ### Host accesses -/

/-- The register interface has no register at another offset. -/
theorem hostAccess_unaligned {off : BitVec 4} (hoff : off ∉ [0x0#4, 0x4#4, 0x8#4, 0xC#4]) (w : Word) (s : State) :
    hostAccess (.read off) s = .fault .unalignedHostAccess ∧
      hostAccess (.write off w) s = .fault .unalignedHostAccess := by
  simp only [List.mem_cons, List.not_mem_nil, or_false, not_or] at hoff
  simp [hostAccess, hostReadValue, hostWriteState, hoff]

/-- Settles O8: the access is made in the state past it, register by register. -/
theorem stepMakesTheHostAccess : Obligations.StepMakesTheHostAccess := by
  intro s rest w hbus hdec
  have haccess : ∀ a, s.accesses = a :: rest → step s = hostAccess a { s with accesses := rest } :=
    fun a hacc => step_of_access hbus hdec hacc
  refine ⟨step_of_idle hbus hdec, fun h => haccess _ h, fun h => haccess _ h, fun h => ?_, fun h => ?_,
    fun h => haccess _ h, fun h => ?_, fun off hoff h => ?_⟩
  · rcases h with h | h <;> exact haccess _ h
  · rcases h with h | h <;> exact haccess _ h
  · rw [haccess _ h]
    simp [hostAccess, hostWriteState, BitVec.setWidth_eq_extractLsb']
  · rcases h with h | h <;> rw [haccess _ h]
    · exact (hostAccess_unaligned hoff w _).1
    · exact (hostAccess_unaligned hoff w _).2

/-! ### STATUS and GEOMETRY -/

theorem statusWord_state (b : Block) : (statusWord b).extractLsb' 0 3 = stateCode b.state := by
  rw [statusWord, BitVec.extractLsb'_cast]
  exact BitVec.extractLsb'_append_eq_right

/-- The fields of STATUS above STATE (10_state.md R22). -/
theorem statusWord_fields (b : Block) :
    (statusWord b).extractLsb' 3 1 = 0 ∧ (statusWord b).extractLsb' 4 2 = b.rot ∧
      (statusWord b).extractLsb' 6 2 = 0 ∧ (statusWord b).extractLsb' 8 4 = errCode b.lastErr ∧
      (statusWord b).extractLsb' 12 20 = 0 := by
  refine ⟨?_, ?_, ?_, ?_, ?_⟩ <;> rw [statusWord, BitVec.extractLsb'_cast] <;>
    simp (disch := decide) only [BitVec.extractLsb'_append_eq_of_le, BitVec.extractLsb'_append_eq_of_add_le] <;>
    exact BitVec.extractLsb'_eq_self

/-- A valid frame's size is a 16-bit coordinate (00_scope.md R7). -/
theorem State.width_le {s : State} (h : s.params.Valid) : s.width ≤ 32767 := by
  obtain ⟨-, hw, -, hh, -⟩ := h
  unfold State.width frameW
  split
  · exact hw
  · exact hh

theorem State.height_le {s : State} (h : s.params.Valid) : s.height ≤ 32767 := by
  obtain ⟨-, hw, -, hh, -⟩ := h
  unfold State.height frameH
  split
  · exact hh
  · exact hw

/-- Settles O9: each field of the two registers is cut out of the pieces they are put together from. -/
theorem statusAndGeometryLayout : Obligations.StatusAndGeometryLayout := by
  refine ⟨⟨rfl, rfl, rfl, rfl, rfl, rfl⟩, ⟨rfl, rfl, rfl, rfl, rfl, rfl⟩, 
    fun b => ⟨statusWord_state b, statusWord_fields b⟩, fun s hvalid => ?_⟩
  have hw := State.width_le hvalid
  have hh := State.height_le hvalid
  simp only [geometryWord, BitVec.extractLsb'_append_eq_left, BitVec.extractLsb'_append_eq_right,
    BitVec.toNat_ofNat]
  omega

/-- Only `Configuring` has the code 2, and no state has the codes 6 and 7 (10_state.md R18). -/
theorem stateCode_ne {v : Lifecycle} (h : v ≠ .configuring) :
    stateCode v ≠ 2 ∧ stateCode v ≠ 6 ∧ stateCode v ≠ 7 := by
  cases v with
  | configuring => exact absurd rfl h
  | _ => decide

/-- Settles O10: the invariant shuts out `Configuring`, the one state with the code 2. -/
theorem statusNeverShowsConfiguring : Obligations.StatusNeverShowsConfiguring := by
  intro s hinv
  obtain ⟨-, -, ⟨hstate, -⟩, -⟩ := hinv
  refine ⟨statusWord s.block, rfl, ?_⟩
  rw [statusWord_state]
  exact stateCode_ne hstate

end Sys2Proof.Machine
end

section
/-!
PROOFS. One inversion lemma for the ends of an instruction over the whole of Instr, and what follows from it
alone: the permission table, the rejections, the results, and the fields a request may write.
-/

namespace Sys2Proof.Machine

/-! ### The kinds of instruction -/

/-- A request with a row in the permission table that runs its checks and then its pseudocode: every request
but the reserved ones and CLOSE (60_exceptions.md R135). -/
def Ordinary (i : Instr) : Prop := i.isRequest = true ∧ isReservedRow i = false ∧ i ≠ .close

theorem instr_kinds (i : Instr) :
    i.isRequest = false ∨ isReservedRow i = true ∨ i = .close ∨ Ordinary i := by
  by_cases hreq : i.isRequest = true
  · by_cases hres : isReservedRow i = true
    · exact .inr (.inl hres)
    · by_cases hclose : i = .close
      · exact .inr (.inr (.inl hclose))
      · exact .inr (.inr (.inr ⟨hreq, Bool.eq_false_iff.2 hres, hclose⟩))
  · exact .inl (Bool.eq_false_iff.2 hreq)

theorem exec_of_reserved {i : Instr} (h : isReservedRow i = true) (s : State) :
    exec i s = .next (s.setErr .illegal) := by
  cases i with
  | reserved header operands payload => rfl
  | _ => cases h

/-- A panel command acts on the panel alone, by the byte it is (30_encoding.md R79). -/
theorem exec_of_panelCommand {i : Instr} (h : i.isRequest = false) (s : State) :
    ∃ c, encodeCommandByte i = some c ∧ exec i s = .next (s.setPanel (s.panel.command s.params c)) := by
  cases i with
  | panelColumnAddressSet => exact ⟨_, rfl, rfl⟩
  | panelRowAddressSet => exact ⟨_, rfl, rfl⟩
  | panelMemoryWrite => exact ⟨_, rfl, rfl⟩
  | panelMemoryAccessControl => exact ⟨_, rfl, rfl⟩
  | _ => cases h

/-! ### Everything an instruction can end in -/

/-- The block after CLOSE has released its lines (41_controller.md R108). -/
structure ClosedNow (s t : State) : Prop where
  around : Around s t
  state : t.block.state = .closed
  rot : t.block.rot = s.block.rot
  claimed : t.block.claimed = false
  err : t.block.lastErr = .none ∨ t.block.lastErr = .lineControl
  panel : t.panel = Panel.indeterminate

/-- Everything an instruction can end in. -/
inductive ExecEnds (i : Instr) (s : State) : State → Prop where
  | panelCommand (c : Byte) (hi : i.isRequest = false) :
      ExecEnds i s (s.setPanel (s.panel.command s.params c))
  | reserved (hi : isReservedRow i = true) : ExecEnds i s (s.setErr .illegal)
  | closeAgain (hi : i = .close) (hs : s.block.state = .closed) : ExecEnds i s (s.setErr .none)
  | close (t : State) (hi : i = .close) (hs : s.block.state ≠ .closed) (ht : ClosedNow s t) : ExecEnds i s t
  | notPermitted (hi : Ordinary i) (hs : s.block.state ∉ permissionTable i) :
      ExecEnds i s (s.setErr .notPermitted)
  | outOfBounds (hi : Ordinary i) (hs : s.block.state ∈ permissionTable i) (hb : ¬boundsOk s i) :
      ExecEnds i s (s.setErr .bounds)
  | failed (t : State) (hi : Ordinary i) (hs : s.block.state ∈ permissionTable i) (ht : Failed s t) :
      ExecEnds i s t
  | completed (t : State) (hi : Ordinary i) (hs : s.block.state ∈ permissionTable i) (ht : Completed i s t) :
      ExecEnds i s t

theorem exec_cases (i : Instr) (s : State) : ∃ t, exec i s = .next t ∧ ExecEnds i s t := by
  rcases instr_kinds i with hreq | hres | rfl | hord
  · obtain ⟨c, -, he⟩ := exec_of_panelCommand hreq s
    exact ⟨_, he, .panelCommand c hreq⟩
  · exact ⟨_, exec_of_reserved hres s, .reserved hres⟩
  · rcases exec_close s with ⟨hs, he⟩ | ⟨hs, t, he, ha, hst, hrot, hcl, herr, hp⟩
    · exact ⟨_, he, .closeAgain rfl hs⟩
    · exact ⟨t, he, .close t rfl hs ⟨ha, hst, hrot, hcl, herr, hp⟩⟩
  · obtain ⟨t, he, hends⟩ := exec_ends hord.1 hord.2.1 hord.2.2 s
    refine ⟨t, he, ?_⟩
    cases hends with
    | notPermitted h => exact .notPermitted hord h
    | outOfBounds h h' => exact .outOfBounds hord h h'
    | failed t h h' => exact .failed t hord h h'
    | completed t h h' => exact .completed t hord h h'

/-- The same for a next state that is given. -/
theorem ExecEnds.of_exec {i : Instr} {s t : State} (he : exec i s = .next t) : ExecEnds i s t := by
  obtain ⟨u, hu, hends⟩ := exec_cases i s
  rw [hu] at he
  cases he
  exact hends

/-! ### What no instruction changes -/

theorem State.setErr_around (s : State) (e : ErrCode) : Around s (s.setErr e) := ⟨rfl, rfl, rfl, rfl, rfl, rfl⟩

theorem ExecEnds.around {i : Instr} {s t : State} (h : ExecEnds i s t) : Around s t := by
  cases h with
  | panelCommand c hi => exact ⟨rfl, rfl, rfl, rfl, rfl, rfl⟩
  | reserved hi => exact s.setErr_around _
  | closeAgain hi hs => exact s.setErr_around _
  | close t hi hs ht => exact ht.around
  | notPermitted hi hs => exact s.setErr_around _
  | outOfBounds hi hs hb => exact s.setErr_around _
  | failed t hi hs ht => exact ht.around
  | completed t hi hs ht => exact ht.around

/-- Settles O60: the decoder takes the request off either supply, and the request runs in one and the same
state, the one with nothing supplied, whose streams no request changes. -/
theorem nothingSuppliedOutlivesARequest : Obligations.NothingSuppliedOutlivesARequest := by
  intro i s ws ws' bs bs' hwf hreq hbus
  have hstep : ∀ vs cs, step { s with req := encode i ++ vs, payload := encodePayload i ++ cs } =
      exec i (clearSupply s) := fun vs cs =>
    step_of_request hbus (decodeOfEncodeIsTheInstruction.1 i vs cs hwf hreq)
  obtain ⟨t, he, hends⟩ := exec_cases i (clearSupply s)
  exact ⟨t, (hstep ws bs).trans he, (hstep ws' bs').trans he, hends.around.req, hends.around.payload,
    hends.around.bus.trans hbus⟩

/-! ### Permission and rejection -/

/-- CLOSE and reserved requests apart, no row of the permission table names `Closed` or `Configuring`, and
`Faulted` only RESET's does (60_exceptions.md R128). -/
theorem permissionTable_of_ordinary {i : Instr} (hi : Ordinary i) :
    .closed ∉ permissionTable i ∧ .configuring ∉ permissionTable i ∧
      (.faulted ∈ permissionTable i → i = .reset) := by
  obtain ⟨hreq, hres, hclose⟩ := hi
  cases i with
  | close => exact absurd rfl hclose
  | reserved header operands payload => cases hres
  | panelColumnAddressSet => cases hreq
  | panelRowAddressSet => cases hreq
  | panelMemoryWrite => cases hreq
  | panelMemoryAccessControl => cases hreq
  | _ => simp [permissionTable]

theorem exec_of_not_permitted {i : Instr} {s : State} (hi : Ordinary i) (hs : s.block.state ∉ permissionTable i) :
    exec i s = .next (s.setErr .notPermitted) := by
  obtain ⟨t, he, hends⟩ := exec_ends hi.1 hi.2.1 hi.2.2 s
  rw [he]
  cases hends with
  | notPermitted h => rfl
  | outOfBounds h h' => exact absurd h hs
  | failed t h h' => exact absurd h hs
  | completed t h h' => exact absurd h hs

/-- Settles O31: each request's row of the permission table shuts `Closed` out, CLOSE's and the reserved
requests apart. -/
theorem closedIsFinal : Obligations.ClosedIsFinal := by
  intro i s hs hreq
  rcases instr_kinds i with hreq' | hres | rfl | hord
  · rw [hreq] at hreq'
    cases hreq'
  · have hclose : i ≠ .close := by
      rintro rfl
      cases hres
    rw [exec_of_reserved hres, if_neg hclose, if_pos hres]
    rfl
  · rcases exec_close s with ⟨-, he⟩ | ⟨hne, -⟩
    · exact he
    · exact absurd hs hne
  · have hnot : s.block.state ∉ permissionTable i := hs ▸ (permissionTable_of_ordinary hord).1
    rw [exec_of_not_permitted hord hnot, if_neg hord.2.2, if_neg (by simp [hord.2.1])]
    rfl

/-- Settles O42: CLOSE's row names every state but `Configuring`, and every other request's row is its check. -/
theorem permissionTableDecides : Obligations.PermissionTableDecides := by
  intro i s hreq hres hconf
  by_cases hclose : i = .close
  · subst hclose
    have hin : s.block.state ∈ permissionTable .close := by
      cases hs : s.block.state with
      | configuring => exact absurd hs hconf
      | _ => simp [permissionTable]
    refine ⟨fun hnot => absurd hin hnot, fun _ => ?_⟩
    rcases exec_close s with ⟨-, he⟩ | ⟨-, t, he, -, -, -, -, herr, -⟩
    · exact ⟨_, he, by simp⟩
    · exact ⟨t, he, by rcases herr with h | h <;> simp [h]⟩
  · refine ⟨fun hnot => exec_of_not_permitted ⟨hreq, hres, hclose⟩ hnot, fun hin => ?_⟩
    obtain ⟨t, he, hends⟩ := exec_ends hreq hres hclose s
    refine ⟨t, he, ?_⟩
    cases hends with
    | notPermitted h => exact absurd hin h
    | outOfBounds h h' => simp
    | failed t h h' => rcases h'.err with he | he <;> simp [he]
    | completed t h h' => simp [h'.err]

/-- Settles O44: the ends that write a rejection's code write nothing else. -/
theorem rejectionChangesOnlyTheResult : Obligations.RejectionChangesOnlyTheResult := by
  intro i s t hreq he hrej
  cases ExecEnds.of_exec he with
  | panelCommand c hi => simp [hreq] at hi
  | reserved hi => rfl
  | closeAgain hi hs => rfl
  | close t hi hs ht => rcases ht.err with h | h <;> simp [h] at hrej
  | notPermitted hi hs => rfl
  | outOfBounds hi hs hb => rfl
  | failed t hi hs ht => rcases ht.err with h | h <;> simp [h] at hrej
  | completed t hi hs ht => simp [ht.err] at hrej

/-- Only SET_ADDRESS_WINDOW has a bounds check (60_exceptions.md R130). -/
theorem setAddressWindow_of_not_boundsOk {i : Instr} {s : State} (hb : ¬boundsOk s i) :
    ∃ x0 y0 x1 y1, i = .setAddressWindow x0 y0 x1 y1 := by
  cases i with
  | setAddressWindow x0 y0 x1 y1 => exact ⟨x0, y0, x1, y1, rfl⟩
  | _ => exact absurd trivial hb

/-- Settles O45: BOUNDS is the end of a failed bounds check, in the one state its row permits, and ILLEGAL the
end of the reserved row. -/
theorem boundsOnlyFromSetAddressWindow : Obligations.BoundsOnlyFromSetAddressWindow := by
  intro i s t hreq he
  cases ExecEnds.of_exec he with
  | panelCommand c hi => simp [hreq] at hi
  | reserved hi => simp [hi]
  | closeAgain hi hs =>
    subst hi
    simp [isReservedRow]
  | close t hi hs ht =>
    subst hi
    rcases ht.err with h | h <;> simp [h, isReservedRow]
  | notPermitted hi hs => simp [hi.2.1]
  | outOfBounds hi hs hb =>
    obtain ⟨x0, y0, x1, y1, rfl⟩ := setAddressWindow_of_not_boundsOk hb
    refine ⟨fun _ => ⟨by simpa [permissionTable] using hs, x0, y0, x1, y1, rfl⟩, by simp [hi.2.1]⟩
  | failed t hi hs ht => rcases ht.err with h | h <;> simp [h, hi.2.1]
  | completed t hi hs ht => simp [ht.err, hi.2.1]

/-! ### S.STATE, S.ROT and CLAIMED -/

/-- The state a completed request leaves is the one it started in, RESET's and INITIALIZE's apart. -/
theorem stateAfter_cases (s : State) (i : Instr) :
    (i = .reset ∧ stateAfter s i = .resetting) ∨ (i = .initializePanel ∧ stateAfter s i = .ready) ∨
      (i ≠ .reset ∧ i ≠ .initializePanel ∧ stateAfter s i = s.block.state) := by
  cases i <;> simp [stateAfter]

/-- Settles O46: `Faulted` permits RESET and CLOSE alone, and `Closed` only CLOSE, which leaves it there. -/
theorem faultedLeftOnlyByResetOrClose : Obligations.FaultedLeftOnlyByResetOrClose := by
  intro i s t he
  cases ExecEnds.of_exec he with
  | panelCommand c hi => exact ⟨.inl, id⟩
  | reserved hi => exact ⟨.inl, id⟩
  | closeAgain hi hs => exact ⟨.inl, id⟩
  | close t hi hs ht => exact ⟨fun _ => .inr (.inr ⟨hi, ht.state⟩), fun _ => ht.state⟩
  | notPermitted hi hs => exact ⟨.inl, id⟩
  | outOfBounds hi hs hb => exact ⟨.inl, id⟩
  | failed t hi hs ht =>
    exact ⟨fun _ => .inl ht.state, fun h => absurd (h ▸ hs) (permissionTable_of_ordinary hi).1⟩
  | completed t hi hs ht =>
    obtain ⟨hclosed, -, hfaulted⟩ := permissionTable_of_ordinary hi
    refine ⟨fun h => ?_, fun h => absurd (h ▸ hs) hclosed⟩
    obtain rfl := hfaulted (h ▸ hs)
    exact .inr (.inl ⟨rfl, ht.state⟩)

theorem rotationIndex_toNat (r : Word) : (rotationIndex r).toNat = r.toNat % 4 := by
  simp [rotationIndex]

/-- Only SET_ROTATION leaves another rotation when it completes. -/
theorem rotAfter_ne {s : State} {i : Instr} (h : rotAfter s i ≠ s.block.rot) :
    ∃ r, i = .setRotation r ∧ rotAfter s i = rotationIndex r := by
  cases i with
  | setRotation r => exact ⟨r, rfl, rfl⟩
  | _ => exact absurd rfl h

/-- Settles O47: of all ends only a completed request's may hold another rotation, and only CLOSE's another
claim. -/
theorem rotationWrittenOnlyBySetRotation : Obligations.RotationWrittenOnlyBySetRotation := by
  intro i s t he
  cases ExecEnds.of_exec he with
  | panelCommand c hi => exact ⟨absurd rfl, absurd rfl⟩
  | reserved hi => exact ⟨absurd rfl, absurd rfl⟩
  | closeAgain hi hs => exact ⟨absurd rfl, absurd rfl⟩
  | close t hi hs ht => exact ⟨absurd ht.rot, fun _ => hi⟩
  | notPermitted hi hs => exact ⟨absurd rfl, absurd rfl⟩
  | outOfBounds hi hs hb => exact ⟨absurd rfl, absurd rfl⟩
  | failed t hi hs ht => exact ⟨absurd ht.rot, absurd ht.claimed⟩
  | completed t hi hs ht =>
    refine ⟨fun hne => ?_, absurd ht.claimed⟩
    rw [ht.rot] at hne ⊢
    obtain ⟨r, hr, hrot⟩ := rotAfter_ne hne
    exact ⟨r, hr, ht.err, by rw [hrot, rotationIndex_toNat]⟩

/-- Settles O48: INITIALIZE alone completes in `Ready` from elsewhere, and no end writes `Configuring`. -/
theorem readyOnlyFromInitialize : Obligations.ReadyOnlyFromInitialize := by
  intro i s t he
  cases ExecEnds.of_exec he with
  | panelCommand c hi => exact ⟨fun h hne => absurd h hne, id⟩
  | reserved hi => exact ⟨fun h hne => absurd h hne, id⟩
  | closeAgain hi hs => exact ⟨fun h hne => absurd h hne, id⟩
  | close t hi hs ht => simp [ht.state]
  | notPermitted hi hs => exact ⟨fun h hne => absurd h hne, id⟩
  | outOfBounds hi hs hb => exact ⟨fun h hne => absurd h hne, id⟩
  | failed t hi hs ht => simp [ht.state]
  | completed t hi hs ht =>
    rw [ht.state]
    rcases stateAfter_cases s i with ⟨-, h⟩ | ⟨rfl, h⟩ | ⟨-, -, h⟩ <;> rw [h]
    · simp
    · exact ⟨fun _ _ => ⟨rfl, by simpa [permissionTable] using hs, ht.err⟩, by simp⟩
    · exact ⟨fun h hne => absurd h hne, id⟩

/-- Settles O26: a SET_ROTATION that ends with NONE has completed, so S.ROT is its index, and the parameters
are unchanged. -/
theorem frameSizeAfterSetRotation : Obligations.FrameSizeAfterSetRotation := by
  intro r s t he herr
  have hrot : t.block.rot = rotationIndex r := by
    cases ExecEnds.of_exec he with
    | panelCommand c hi => cases hi
    | reserved hi => cases hi
    | closeAgain hi hs => cases hi
    | close t hi hs ht => cases hi
    | notPermitted hi hs => simp at herr
    | outOfBounds hi hs hb => simp at herr
    | failed t hi hs ht => rcases ht.err with h | h <;> simp [h] at herr
    | completed t hi hs ht => exact ht.rot
  have hpar : t.params = s.params := (ExecEnds.of_exec he).around.params
  simp only [State.width, State.height, hpar, frameW, frameH, hrot, rotationIndex_toNat]
  split <;> rfl

end Sys2Proof.Machine
end

section
/-!
PROOFS. The requests that run pseudocode, as their permission, their bounds check and their body, and the
events that each emits: framed, an extension of the trace, and no more than the completed form's.
-/

namespace Sys2Proof.Machine

/-! ### A request by its parts -/

/-- The states a request runs in, as its arm of `exec` checks them. -/
def permittedOf : Instr → Lifecycle → Bool
  | .sendCmd _ => framerPermitted
  | .sendData _ => framerPermitted
  | .reset => resetPermitted
  | .initializePanel => initializePermitted
  | _ => readyOnly

/-- The bounds check of a request. -/
def boundsOf : Instr → State → Bool
  | .setAddressWindow x0 y0 x1 y1 => windowInFrame x0 y0 x1 y1
  | _ => noBounds

/-- The pseudocode of a request. -/
def bodyOf : Instr → State → Run
  | .sendCmd cmd => frame .low [cmd]
  | .sendData bs => frame .high bs
  | .reset => resetBody
  | .initializePanel => initializeBody
  | .setRotation r => setRotationBody (rotationIndex r)
  | .setAddressWindow x0 y0 x1 y1 => windowSeq (s16 x0).toNat (s16 y0).toNat (s16 x1).toNat (s16 y1).toNat
  | .fillRegion x y w h color => fillRegionBody (s16 x) (s16 y) (s16 w) (s16 h) (colour16 color)
  | .fillScreen color => fillScreenBody (colour16 color)
  | .setPixel x y color => setPixelBody (s16 x) (s16 y) (colour16 color)
  | _ => .done

/-- `exec`, of a request that runs pseudocode. -/
theorem exec_eq_request {i : Instr} (hi : Ordinary i) (s : State) :
    exec i s = .next (request (permittedOf i) (boundsOf i) (bodyOf i) s) := by
  cases i with
  | close => exact absurd rfl hi.2.2
  | reserved header operands payload => cases hi.2.1
  | panelColumnAddressSet => cases hi.1
  | panelRowAddressSet => cases hi.1
  | panelMemoryWrite => cases hi.1
  | panelMemoryAccessControl => cases hi.1
  | _ => rfl

@[simp] theorem finish_trace (r : Run) : (finish r).trace = r.state.trace := by
  cases r <;> rfl

/-! ### The framing discipline -/

/-- `t` is `s` with framed events added to its trace. -/
def AddsFramed (s t : State) : Prop := ∃ evs, t.trace = s.trace ++ evs ∧ csDiscipline .idle evs = true

theorem AddsFramed.of_trace_eq {s t : State} (h : t.trace = s.trace) : AddsFramed s t :=
  ⟨[], by rw [h, List.append_nil], rfl⟩

theorem request_addsFramed {permitted : Lifecycle → Bool} {inBounds : State → Bool} {body : State → Run}
    {s : State} (hb : AddsFramed s (body s).state) : AddsFramed s (request permitted inBounds body s) := by
  rcases request_cases permitted inBounds body s with ⟨-, h⟩ | ⟨-, -, h⟩ | ⟨-, -, h⟩ <;> rw [h]
  · exact .of_trace_eq rfl
  · exact .of_trace_eq rfl
  · simpa only [AddsFramed, endRequest_trace, finish_trace] using hb

theorem resetBody_addsFramed (s : State) : AddsFramed s (resetBody s).state := by
  obtain ⟨evs, ht, hd, -⟩ := resetPulse_cases (s.setState .resetting)
  refine ⟨evs, ?_, hd⟩
  unfold resetBody
  cases hr : resetPulse (s.setState .resetting) <;> rw [hr] at ht <;> exact ht

theorem initializeBody_addsFramed (s : State) : AddsFramed s (initializeBody s).state := by
  obtain ⟨evs, ht, hd⟩ := (emitTable_sends s.params.initTable (s.setState .configuring)).trace
  refine ⟨evs, ?_, hd⟩
  unfold initializeBody
  cases hr : emitTable s.params.initTable (s.setState .configuring) <;> rw [hr] at ht <;> exact ht

/-- SET_ROTATION's two transactions, before S.ROT is written (41_controller.md R100). -/
theorem setRotationBody_eq (i : BitVec 2) (s : State) :
    setRotationBody i s =
      ((frame .low [0x36#8] s).andThen (frame .high [madctlByte i])).andThen fun u => .done (u.setRot i) := by
  rw [Run.andThen_assoc]
  rfl

theorem rotationFrames_sends (i : BitVec 2) (s : State) :
    Sends s ((frame .low [0x36#8] s).andThen (frame .high [madctlByte i])) :=
  (frame_sends _ _ _).andThen fun _ _ => frame_sends _ _ _

theorem setRotationBody_addsFramed (i : BitVec 2) (s : State) : AddsFramed s (setRotationBody i s).state := by
  obtain ⟨evs, ht, hd⟩ := (rotationFrames_sends i s).trace
  refine ⟨evs, ?_, hd⟩
  rw [setRotationBody_eq]
  cases hr : (frame .low [0x36#8] s).andThen (frame .high [madctlByte i]) <;> rw [hr] at ht <;> exact ht

theorem bodyOf_addsFramed (i : Instr) (s : State) : AddsFramed s (bodyOf i s).state := by
  cases i with
  | sendCmd cmd => exact (frame_sends .low [cmd] s).trace
  | sendData bs => exact (frame_sends .high bs s).trace
  | reset => exact resetBody_addsFramed s
  | initializePanel => exact initializeBody_addsFramed s
  | setRotation r => exact setRotationBody_addsFramed _ s
  | setAddressWindow x0 y0 x1 y1 => exact (windowSeq_sends _ _ _ _ s).trace
  | fillRegion x y w h color => exact (fillRegionBody_sends _ _ _ _ _ s).trace
  | fillScreen color => exact (fillSeq_sends _ _ s).trace
  | setPixel x y color => exact (setPixelBody_sends _ _ _ s).trace
  | _ => exact .of_trace_eq rfl

theorem closeRequest_addsFramed (s : State) : AddsFramed s (closeRequest s) := by
  obtain ⟨a, b, c, ht, -⟩ := releaseAll_spec s
  unfold closeRequest
  split
  · exact .of_trace_eq rfl
  · exact ⟨_, by rw [endRequest_trace]; exact ht, rfl⟩

theorem exec_addsFramed {i : Instr} {s t : State} (he : exec i s = .next t) : AddsFramed s t := by
  rcases instr_kinds i with hreq | hres | rfl | hord
  · obtain ⟨c, -, hc⟩ := exec_of_panelCommand hreq s
    cases hc.symm.trans he
    exact .of_trace_eq rfl
  · cases (exec_of_reserved hres s).symm.trans he
    exact .of_trace_eq rfl
  · cases he
    exact closeRequest_addsFramed s
  · cases (exec_eq_request hord s).symm.trans he
    exact request_addsFramed (bodyOf_addsFramed i s)

/-- Settles O21: the body of every request is made of framed pieces, and its end emits nothing. -/
theorem everyWriteIsFramed : Obligations.EveryWriteIsFramed := fun _ _ _ he => exec_addsFramed he

/-! ### Steps -/

/-- Two states that differ at most in the bus, the oracle and the host's streams. -/
structure SameCore (s t : State) : Prop where
  params : t.params = s.params
  block : t.block = s.block
  panel : t.panel = s.panel
  trace : t.trace = s.trace

/-- A write to a register changes the host's streams and nothing else. -/
theorem hostWriteState_sameCore {off : BitVec 4} {w : Word} {s t : State} (h : hostWriteState off w s = some t) :
    SameCore s t ∧ t.bus = s.bus := by
  unfold hostWriteState at h
  repeat' split at h
  all_goals cases h
  all_goals exact ⟨⟨rfl, rfl, rfl, rfl⟩, rfl⟩

/-- An access of the host changes the host's streams and nothing else. -/
theorem hostAccess_sameCore {a : HostAccess} {s t : State} (h : hostAccess a s = .next t) :
    SameCore s t ∧ t.bus = s.bus := by
  cases a with
  | read off =>
    simp only [hostAccess] at h
    split at h <;> cases h
    exact ⟨⟨rfl, rfl, rfl, rfl⟩, rfl⟩
  | write off w =>
    simp only [hostAccess] at h
    split at h <;> cases h
    exact hostWriteState_sameCore ‹_›

/-- Everything a step that goes on can do: run an instruction, a request when the bus is idle; let the panel
read a byte; or change the host's streams alone. -/
theorem step_cases {s t : State} (h : step s = .next t) :
    (∃ i u, exec i u = .next t ∧ SameCore s u ∧ (s.bus = [] → u.bus = [] ∧ i.isRequest = true)) ∨
    (∃ b rest, s.bus = b :: rest ∧ t = readBusByte b { s with bus := rest }) ∨
    (SameCore s t ∧ t.bus = s.bus) := by
  cases hbus : s.bus with
  | cons b rest =>
    rcases step_cases_of_busByte hbus with ⟨i, -, he⟩ | he
    · exact .inl ⟨i, _, he.symm.trans h, ⟨rfl, rfl, rfl, rfl⟩, by simp⟩
    · cases he.symm.trans h
      exact .inr (.inl ⟨b, rest, rfl, rfl⟩)
  | nil =>
    rcases step_cases_of_idle_bus hbus with ⟨i, ws, bs, hdec, he⟩ | ⟨a, rest, he⟩ | he
    · have hreq := (encodeOfDecodeIsTheWords.1 _ _ _ _ _ hdec).2.1
      exact .inl ⟨i, clearSupply s, he.symm.trans h, ⟨rfl, rfl, rfl, rfl⟩, fun _ => ⟨hbus, hreq⟩⟩
    · obtain ⟨hcore, hb⟩ := hostAccess_sameCore (he.symm.trans h)
      exact .inr (.inr ⟨⟨hcore.params, hcore.block, hcore.panel, hcore.trace⟩, hb.trans hbus⟩)
    · cases he.symm.trans h
      exact .inr (.inr ⟨⟨rfl, rfl, rfl, rfl⟩, hbus⟩)

/-- Settles O15: of what a step can do only an instruction emits events, and it extends the trace. -/
theorem traceOnlyGrows : Obligations.TraceOnlyGrows := by
  intro s t h
  rcases step_cases h with ⟨i, u, he, hu, -⟩ | ⟨b, rest, -, rfl⟩ | ⟨hcore, -⟩
  · obtain ⟨evs, ht, -⟩ := exec_addsFramed he
    exact ⟨⟨evs, hu.trace ▸ ht⟩, (ExecEnds.of_exec he).around.params.trans hu.params⟩
  · exact ⟨⟨[], (List.append_nil _).symm⟩, rfl⟩
  · exact ⟨⟨[], by rw [hcore.trace, List.append_nil]⟩, hcore.params⟩

end Sys2Proof.Machine
end

section
/-!
PROOFS. The pure arithmetic of a fill: the clip of 42_pixel_fill.md R114 as an intersection, and the chunks of
R115 as a cut of the pixels.
-/

namespace Sys2Proof.Machine

/-! ### The clip -/

/-- A clip that is not EMPTY has the larger of the two origins and the smaller of the two ends
(42_pixel_fill.md R114). -/
theorem clip_eq_some {fw fh : Nat} {x y w h : Int} {r : Rect} (hclip : clip fw fh x y w h = some r) :
    1 ≤ r.w ∧ 1 ≤ r.h ∧ (r.x : Int) = max x 0 ∧ (r.y : Int) = max y 0 ∧
      (r.x + r.w : Int) = min (x + w) fw ∧ (r.y + r.h : Int) = min (y + h) fh := by
  simp only [clip] at hclip
  split at hclip
  · cases hclip
  · cases hclip
    dsimp only
    omega

/-- Settles O38: a pixel of the frame is between the clip's corners exactly when it is in the rectangle, and a
clip that is not EMPTY has its own first pixel. -/
theorem clipIsTheIntersection : Obligations.ClipIsTheIntersection := by
  intro fw fh x y w h
  constructor
  · intro r hclip
    obtain ⟨hw, hh, hx, hy, hxw, hyh⟩ := clip_eq_some hclip
    refine ⟨hw, hh, by omega, by omega, fun px py hpx hpy => ?_⟩
    omega
  · constructor
    · intro hnone px py hpx hpy
      rw [clip_eq_none_iff] at hnone
      omega
    · intro hno
      cases hclip : clip fw fh x y w h with
      | none => rfl
      | some r =>
        obtain ⟨hw, hh, hx, hy, hxw, hyh⟩ := clip_eq_some hclip
        exact absurd (by omega) (hno r.x r.y (by omega) (by omega))

/-! ### The byte pairs of a colour -/

theorem repeatedPair_add (c : Half) (m n : Nat) : repeatedPair c (m + n) = repeatedPair c m ++ repeatedPair c n := by
  rw [repeatedPair, List.replicate_add, List.flatten_append]
  rfl

@[simp] theorem repeatedPair_length (c : Half) (n : Nat) : (repeatedPair c n).length = 2 * n := by
  simp [repeatedPair, bigEndian, Nat.mul_comm]

theorem replicate_repeatedPair_flatten (c : Half) (k q : Nat) :
    (List.replicate q (repeatedPair c k)).flatten = repeatedPair c (k * q) := by
  induction q with
  | zero => rfl
  | succ q ih => rw [List.replicate_succ, List.flatten_cons, ih, Nat.mul_succ, Nat.add_comm, repeatedPair_add]

/-! ### The chunks -/

/-- Rounding up adds one to the quotient unless the division is exact. -/
theorem ceilDiv_eq {a b : Nat} (hb : 1 ≤ b) : ceilDiv a b = a / b + if a % b = 0 then 0 else 1 := by
  have hmod := Nat.mod_lt a hb
  have hsum : a + b - 1 = b * (a / b) + (a % b + b - 1) := by
    have := Nat.div_add_mod a b
    omega
  rw [ceilDiv, hsum, Nat.mul_add_div hb]
  congr 1
  split
  · exact Nat.div_eq_of_lt (by omega)
  · exact Nat.div_eq_of_lt_le (by omega) (by omega)

theorem pixelChunks_length {k : Nat} (hk : 1 ≤ k) (pixels : Nat) (c : Half) :
    (pixelChunks k pixels c).length = ceilDiv pixels k := by
  rw [ceilDiv_eq hk, pixelChunks, List.length_append, List.length_replicate]
  split <;> rfl

/-- Together the chunks are the colour's pair for every pixel. -/
theorem pixelChunks_flatten (k pixels : Nat) (c : Half) :
    (pixelChunks k pixels c).flatten = repeatedPair c pixels := by
  rw [pixelChunks, List.flatten_append, replicate_repeatedPair_flatten]
  conv_rhs => rw [← Nat.div_add_mod pixels k, repeatedPair_add]
  split
  next h => rw [h]; rfl
  next h => rw [List.flatten_singleton]

theorem mem_pixelChunks {k pixels : Nat} {c : Half} (hk : 1 ≤ k) {bs : List Byte}
    (hbs : bs ∈ pixelChunks k pixels c) : ∃ m, bs = repeatedPair c m ∧ 1 ≤ m ∧ m ≤ k := by
  rcases List.mem_append.1 hbs with h | h
  · exact ⟨k, (List.mem_replicate.1 h).2, hk, Nat.le_refl k⟩
  · split at h
    · cases h
    next hmod =>
      exact ⟨pixels % k, List.mem_singleton.1 h, Nat.one_le_iff_ne_zero.2 hmod, (Nat.mod_lt pixels hk).le⟩

/-- All chunks but the last are full. -/
theorem mem_dropLast_pixelChunks {k pixels : Nat} {c : Half} {bs : List Byte}
    (hbs : bs ∈ (pixelChunks k pixels c).dropLast) : bs = repeatedPair c k := by
  unfold pixelChunks at hbs
  split at hbs
  · rw [List.append_nil] at hbs
    exact (List.mem_replicate.1 (List.mem_of_mem_dropLast hbs)).2
  · rw [List.dropLast_concat] at hbs
    exact (List.mem_replicate.1 hbs).2

/-- Settles O39: each chunk is the pair of the colour for some number of pixels, and the numbers sum up. -/
theorem chunksCoverThePixels : Obligations.ChunksCoverThePixels := by
  intro p pixels c hvalid
  obtain ⟨-, -, -, -, hk, hmax, -⟩ := hvalid
  refine ⟨pixelChunks_length hk pixels c, pixelChunks_flatten _ _ _, ?_, fun bs hbs => ?_, fun bs hbs => ?_⟩
  · rw [pixelChunks_flatten, repeatedPair_length]
  · rw [mem_dropLast_pixelChunks hbs, repeatedPair_length]
  · obtain ⟨m, rfl, hm, hmk⟩ := mem_pixelChunks hk hbs
    exact ⟨m, repeatedPair_length c m, hm, hmk, by rw [repeatedPair_length]; omega⟩

end Sys2Proof.Machine
end

section
/-!
PROOFS. What a request emits against its completed form (70_reset_and_hazards.md R161, 60_exceptions.md R133):
every body follows its completed form, and the CS deassert attempt stands where that form has its own deassert.
-/

namespace Sys2Proof.Machine

/-! ### Every body follows its completed form -/

theorem bodyOf_follows {i : Instr} (hi : Ordinary i) (s : State) :
    Follows (completedEvents s i) s (bodyOf i s) := by
  cases i with
  | sendCmd cmd => exact frame_follows .low [cmd] s
  | sendData bs => exact frame_follows .high bs s
  | reset => exact resetBody_follows s
  | initializePanel => exact initializeBody_follows s
  | setRotation r => exact setRotationBody_follows _ s
  | setAddressWindow x0 y0 x1 y1 => exact windowSeq_follows _ _ _ _ s
  | close => exact absurd rfl hi.2.2
  | fillRegion x y w h color => exact fillRegionBody_follows x y w h color s
  | fillScreen color => exact fillSeq_follows _ _ s
  | setPixel x y color => exact setPixelBody_follows x y color s
  | reserved header operands payload => cases hi.2.1
  | panelColumnAddressSet => cases hi.1
  | panelRowAddressSet => cases hi.1
  | panelMemoryWrite => cases hi.1
  | panelMemoryAccessControl => cases hi.1

/-- Settles O43: the two errors are ends of a failed request, whose body has followed its completed form up to
the failing event, or of CLOSE. -/
theorem failureEntersFaulted : Obligations.FailureEntersFaulted := by
  intro i s t hreq he herr
  cases ExecEnds.of_exec he with
  | panelCommand c hi => simp [hreq] at hi
  | reserved hi => simp at herr
  | closeAgain hi hs => simp at herr
  | close t hi hs ht =>
    have hline : t.block.lastErr = .lineControl := by
      rcases ht.err with h | h
      · simp [h] at herr
      · exact h
    exact ⟨fun hne => absurd hi hne, fun _ => ⟨ht.state, hline⟩, ht.panel, ht.around.req, ht.around.payload⟩
  | notPermitted hi hs => simp at herr
  | outOfBounds hi hs hb => simp at herr
  | failed t hi hs ht =>
    refine ⟨fun _ => ⟨ht.state, ht.rot, ht.claimed, ht.cs, ?_⟩, fun h => absurd h hi.2.2, ht.panel,
      ht.around.req, ht.around.payload⟩
    cases (exec_eq_request hi s).symm.trans he
    exact request_follows (bodyOf_follows hi s) herr
  | completed t hi hs ht => simp [ht.err] at herr

/-! ### The completed forms are framed -/

theorem entryEvents_framed (e : InitEntry) : csDiscipline .idle (entryEvents e) = true := by
  cases e with
  | wait ms => rfl
  | cmd c ps => cases ps <;> rfl

theorem flatMap_framed {α : Type} {f : α → List Event} (hf : ∀ a, csDiscipline .idle (f a) = true)
    (as : List α) : csDiscipline .idle (as.flatMap f) = true := by
  induction as with
  | nil => rfl
  | cons a as ih => exact csDiscipline_append (hf a) ih

theorem fillEvents_framed (chunkPixels : Nat) (r : Rect) (c : Half) :
    csDiscipline .idle (fillEvents chunkPixels r c) = true :=
  csDiscipline_append rfl (flatMap_framed (fun _ => rfl) _)

theorem completedEvents_framed (s : State) (i : Instr) : csDiscipline .idle (completedEvents s i) = true := by
  cases i with
  | initializePanel => exact flatMap_framed entryEvents_framed _
  | fillRegion x y w h color =>
    simp only [completedEvents]
    split
    · exact fillEvents_framed _ _ _
    · rfl
  | fillScreen color => exact fillEvents_framed _ _ _
  | setPixel x y color =>
    simp only [completedEvents]
    split <;> rfl
  | _ => rfl

/-! ### A failed form is no longer than the completed one -/

/-- Framed events do not end with CS asserted. -/
theorem csDiscipline_pos {ph : CsPhase} {evs : List Event} (h : csDiscipline ph evs = true) (hph : ph ≠ .idle) :
    1 ≤ evs.length := by
  cases evs with
  | nil =>
    cases ph with
    | idle => exact absurd rfl hph
    | asserted => cases h
    | written => cases h
  | cons e evs => exact Nat.le_add_left 1 _

/-- After one framed event the rest is framed, and not at its end where a CS deassert attempt would follow. -/
theorem csDiscipline_tail {ph : CsPhase} {e : Event} {evs : List Event} (h : csDiscipline ph (e :: evs) = true)
    (ok : Bool) : ∃ ph', csDiscipline ph' evs = true ∧ (deassertAfter e ok).length ≤ evs.length := by
  cases ph with
  | idle =>
    cases e with
    | write bs k => cases h
    | setLine l lv sent =>
      cases l with
      | cs =>
        cases lv with
        | low => exact ⟨.asserted, h, csDiscipline_pos h (by decide)⟩
        | high => cases h
      | _ => exact ⟨.idle, h, Nat.zero_le _⟩
    | _ => exact ⟨.idle, h, Nat.zero_le _⟩
  | asserted =>
    cases e with
    | write bs k => exact ⟨.written, h, csDiscipline_pos h (by decide)⟩
    | setLine l lv sent =>
      cases l with
      | cs =>
        cases lv with
        | low => cases h
        | high => exact ⟨.idle, h, Nat.zero_le _⟩
      | _ => cases h
    | _ => cases h
  | written =>
    cases e with
    | setLine l lv sent =>
      cases l with
      | cs =>
        cases lv with
        | low => cases h
        | high => exact ⟨.idle, h, Nat.zero_le _⟩
      | _ => cases h
    | _ => cases h

theorem deassertAfter_fits {evs : List Event} {ph : CsPhase} {n : Nat} {e : Event}
    (h : csDiscipline ph evs = true) (hn : evs[n]? = some e) (ok : Bool) :
    n + 1 + (deassertAfter e ok).length ≤ evs.length := by
  induction evs generalizing ph n with
  | nil => simp at hn
  | cons d evs ih =>
    obtain ⟨ph', h', hfit⟩ := csDiscipline_tail h ok
    cases n with
    | zero =>
      cases hn
      simp only [List.length_cons]
      omega
    | succ n =>
      have := ih h' hn
      simp only [List.length_cons]
      omega

/-- A failing event is followed by what would follow the event it stands for. -/
theorem FailsAs.deassertAfter_eq {e e' : Event} (h : FailsAs e e') (ok : Bool) :
    deassertAfter e' ok = deassertAfter e ok := by
  cases h with
  | setLine l lv => cases l <;> cases lv <;> rfl
  | write bs k hk => rfl
  | release l => rfl

/-- A run that follows framed events emits no more of them, however it ends. -/
theorem Follows.trace_length_le {evs : List Event} {s : State} {r : Run} (h : Follows evs s r)
    (hframed : csDiscipline .idle evs = true) : r.state.trace.length ≤ s.trace.length + evs.length := by
  cases r with
  | done t =>
    have h : t.trace = s.trace ++ evs := h
    simp [h]
  | raised err t =>
    obtain ⟨n, e, e', ok, hn, hfail, ht, -⟩ := h
    have hfit := deassertAfter_fits hframed hn ok
    rw [Run.state_raised, ht, hfail.deassertAfter_eq]
    simp only [List.length_append, List.length_cons, List.length_take]
    omega

/-! ### The lengths of the completed forms -/

theorem flatMap_dataEvents_length (bss : List (List Byte)) : (bss.flatMap dataEvents).length = 4 * bss.length := by
  induction bss with
  | nil => rfl
  | cons bs bss ih =>
    rw [List.flatMap_cons, List.length_append, ih, List.length_cons]
    simp only [dataEvents, List.length_cons, List.length_nil]
    omega

theorem windowEvents_length (x0 y0 x1 y1 : Nat) : (windowEvents x0 y0 x1 y1).length = 20 := rfl

theorem fillEvents_length {k : Nat} (hk : 1 ≤ k) (r : Rect) (c : Half) :
    (fillEvents k r c).length = 20 + 4 * ceilDiv (r.w * r.h) k := by
  rw [fillEvents, List.length_append, windowEvents_length, flatMap_dataEvents_length, pixelChunks_length hk]

theorem ceilDiv_one {k : Nat} (hk : 1 ≤ k) : ceilDiv 1 k = 1 := by
  rw [ceilDiv, Nat.add_sub_cancel_left]
  exact Nat.div_self hk

/-- The completed form of every request has the length that 70_reset_and_hazards.md R161 counts. -/
theorem completedEvents_length {s : State} (hk : 1 ≤ s.params.chunkPixels) (i : Instr) :
    (completedEvents s i).length = eventBound s i := by
  unfold eventBound
  cases i with
  | initializePanel => exact List.length_flatMap
  | fillRegion x y w h color =>
    simp only [completedEvents, fillTarget]
    cases clip s.width s.height (s16 x) (s16 y) (s16 w) (s16 h) with
    | none => rfl
    | some r => exact fillEvents_length hk r (colour16 color)
  | fillScreen color =>
    simp only [completedEvents, fillTarget]
    exact fillEvents_length hk _ (colour16 color)
  | setPixel x y color =>
    simp only [completedEvents, fillTarget]
    split
    · simp only [Nat.mul_one, ceilDiv_one hk]
      rfl
    · rfl
  | _ => rfl

theorem request_trace_length_le {permitted : Lifecycle → Bool} {inBounds : State → Bool} {body : State → Run}
    {s : State} {n : Nat} (h : (body s).state.trace.length ≤ s.trace.length + n) :
    (request permitted inBounds body s).trace.length ≤ s.trace.length + n := by
  rcases request_cases permitted inBounds body s with ⟨-, hr⟩ | ⟨-, -, hr⟩ | ⟨-, -, hr⟩ <;> rw [hr]
  · exact Nat.le_add_right _ _
  · exact Nat.le_add_right _ _
  · simpa using h

theorem closeRequest_trace_length_le (s : State) : (closeRequest s).trace.length ≤ s.trace.length + 3 := by
  obtain ⟨a, b, c, ht, -⟩ := releaseAll_spec s
  unfold closeRequest
  split
  · exact Nat.le_add_right _ _
  · simp [closeBlock, ht]

/-- Settles O49: a body emits at most its completed form, which has the counted length. -/
theorem eventCountIsBounded : Obligations.EventCountIsBounded := by
  intro i s hvalid
  rcases instr_kinds i with hreq | hres | rfl | hord
  · obtain ⟨c, -, he⟩ := exec_of_panelCommand hreq s
    exact ⟨_, he, Nat.le_add_right _ _⟩
  · exact ⟨_, exec_of_reserved hres s, Nat.le_add_right _ _⟩
  · exact ⟨_, rfl, closeRequest_trace_length_le s⟩
  · have hlen := (bodyOf_follows hord s).trace_length_le (completedEvents_framed s i)
    rw [completedEvents_length hvalid.2.2.2.2.1] at hlen
    exact ⟨_, exec_eq_request hord s, request_trace_length_le hlen⟩

end Sys2Proof.Machine
end

section
/-!
PROOFS. The machine's invariant (10_state.md sections 2, 4 and 5; 20_memory.md section 6): it holds at reset and
every step keeps it. The line levels and the panel are followed through the bodies of the requests.
-/

namespace Sys2Proof.Machine

/-! ### Construction -/

/-- The given size is the frame's at the rotation given (70_reset_and_hazards.md R147). -/
theorem constructed_size (c : DisplayConfig) (chunk maxBytes : Nat) (table : List InitEntry)
    (roles : List InitRole) :
    (State.constructed (constructParams c chunk maxBytes table roles)).width = c.width ∧
      (State.constructed (constructParams c chunk maxBytes table roles)).height = c.height := by
  have hparity : c.rotation % 4 % 2 = c.rotation % 2 := by omega
  by_cases heven : c.rotation % 2 = 0 <;>
    simp [State.width, State.height, frameW, frameH, State.constructed, constructParams, hparity, heven]

/-- Settles O11: a construction that succeeds is `State.constructed`. -/
theorem constructionState : Obligations.ConstructionState := by
  intro c chunk maxBytes table roles
  have hrot : (BitVec.ofNat 2 c.rotation).toNat = c.rotation % 4 := by simp
  obtain ⟨hw, hh⟩ := constructed_size c chunk maxBytes table roles
  exact ⟨_, rfl, rfl, hrot, rfl, rfl, rfl, rfl, rfl, rfl, rfl, hw, hh⟩

theorem constructed_Inv {p : Params} (h : p.Valid) : (State.constructed p).Inv := by
  refine ⟨h, rfl, ?_, Panel.blank_Inv p false, ?_, ?_⟩ <;> simp [State.constructed, Block.Inv]

/-- Settles O13: reset is a construction with the free parameters, of which only their validity is known. -/
theorem resetMeetsInvariant : Obligations.ResetMeetsInvariant :=
  ⟨constructed_Inv Config.construction.property, rfl, _, Config.construction.property, rfl⟩

/-! ### The levels of CS and DC -/

/-- CS is high and DC has a known level, as after any completed transaction. -/
def LinesIdle (b : Block) : Prop := b.lineCS = .known .high ∧ b.lineDC ≠ .unknown

/-- A piece of pseudocode that leaves the lines idle where they were, when it ends well. -/
def KeepsIdle (s : State) (r : Run) : Prop := ∀ t, r = .done t → LinesIdle s.block → LinesIdle t.block

theorem KeepsIdle.refl (s : State) : KeepsIdle s (.done s) := by
  rintro t ⟨⟩ h
  exact h

theorem KeepsIdle.andThen {s : State} {r : Run} {f : State → Run} (h : KeepsIdle s r)
    (hf : ∀ t, KeepsIdle t (f t)) : KeepsIdle s (r.andThen f) := by
  intro u hu hs
  obtain ⟨t, ht, hu⟩ := Run.andThen_eq_done hu
  exact hf t u hu (h t ht hs)

/-- A transaction that completes is `frameDone`. -/
theorem frame_eq_done {dc : Level} {bs : List Byte} {s t : State} (h : frame dc bs s = .done t) :
    t = frameDone dc bs s := by
  rcases frame_cases dc bs s with h' | h' | h' | ⟨k, h'⟩ | h' <;> cases h'.symm.trans h
  rfl

theorem frame_linesIdle {dc : Level} {bs : List Byte} {s t : State} (h : frame dc bs s = .done t) :
    LinesIdle t.block := by
  rw [frame_eq_done h]
  exact ⟨rfl, by simp [frameDone]⟩

theorem frame_keepsIdle (dc : Level) (bs : List Byte) (s : State) : KeepsIdle s (frame dc bs s) :=
  fun _ ht _ => frame_linesIdle ht

theorem windowSeq_keepsIdle (x0 y0 x1 y1 : Nat) (s : State) : KeepsIdle s (windowSeq x0 y0 x1 y1 s) :=
  (frame_keepsIdle _ _ _).andThen fun _ => (frame_keepsIdle _ _ _).andThen fun _ =>
    (frame_keepsIdle _ _ _).andThen fun _ => (frame_keepsIdle _ _ _).andThen fun _ => frame_keepsIdle _ _ _

theorem dataFrames_keepsIdle (bss : List (List Byte)) (s : State) : KeepsIdle s (dataFrames bss s) := by
  induction bss generalizing s with
  | nil => exact .refl s
  | cons bs bss ih => exact (frame_keepsIdle _ _ _).andThen ih

theorem fillSeq_keepsIdle (r : Rect) (c : Half) (s : State) : KeepsIdle s (fillSeq r c s) :=
  (windowSeq_keepsIdle _ _ _ _ _).andThen fun _ => dataFrames_keepsIdle _ _

theorem fillRegionBody_keepsIdle (x y w h : Int) (c : Half) (s : State) :
    KeepsIdle s (fillRegionBody x y w h c s) := by
  unfold fillRegionBody
  split
  · exact .refl s
  · exact fillSeq_keepsIdle _ _ _

theorem setPixelBody_keepsIdle (x y : Int) (c : Half) (s : State) : KeepsIdle s (setPixelBody x y c s) := by
  unfold setPixelBody
  split
  · exact (windowSeq_keepsIdle _ _ _ _ _).andThen fun _ => frame_keepsIdle _ _ _
  · exact .refl s

theorem emitEntry_keepsIdle (e : InitEntry) (s : State) : KeepsIdle s (emitEntry e s) := by
  cases e with
  | wait ms =>
    rintro t ⟨⟩ h
    exact h
  | cmd c ps =>
    refine (frame_keepsIdle _ _ _).andThen fun t => ?_
    split
    · exact .refl t
    · exact frame_keepsIdle _ _ _

theorem emitTable_keepsIdle (es : List InitEntry) (s : State) : KeepsIdle s (emitTable es s) := by
  induction es generalizing s with
  | nil => exact .refl s
  | cons e es ih => exact (emitEntry_keepsIdle _ _).andThen ih

theorem emitEntry_cmd_linesIdle {c : Byte} {ps : List Byte} {s t : State}
    (h : emitEntry (.cmd c ps) s = .done t) : LinesIdle t.block := by
  obtain ⟨u, hu, ht⟩ := Run.andThen_eq_done h
  split at ht
  · cases ht
    exact frame_linesIdle hu
  · exact frame_linesIdle ht

/-- A table with a command leaves the lines idle, whatever they were before it. -/
theorem emitTable_linesIdle {es : List InitEntry} {c : Byte} {ps : List Byte} (hc : .cmd c ps ∈ es)
    {s t : State} (h : emitTable es s = .done t) : LinesIdle t.block := by
  induction es generalizing s with
  | nil => cases hc
  | cons e es ih =>
    obtain ⟨u, hu, ht⟩ := Run.andThen_eq_done h
    rcases List.mem_cons.1 hc with rfl | hc
    · exact emitTable_keepsIdle es u t ht (emitEntry_cmd_linesIdle hu)
    · exact ih hc ht

/-! ### What a completed body keeps -/

/-- What every completed body but RESET's keeps of the state it ran in. -/
structure Kept (s t : State) : Prop where
  rst : t.block.lineRST = s.block.lineRST
  cs : s.block.lineCS ≠ .known .low → t.block.lineCS ≠ .known .low
  idle : LinesIdle s.block → LinesIdle t.block
  panelInv : s.panel.Inv s.params → t.panel.Inv s.params
  live : t.panel.live = s.panel.live

theorem Sends.kept {s t : State} {r : Run} (h : Sends s r) (hidle : KeepsIdle s r) (hr : r = .done t) :
    Kept s t := by
  subst hr
  exact ⟨h.rst, h.cs, hidle t rfl, h.panelInv, h.done t rfl⟩

theorem bodyOf_kept {i : Instr} (hi : i ≠ .reset) {s t : State} (h : bodyOf i s = .done t) : Kept s t := by
  cases i with
  | sendCmd cmd => exact (frame_sends _ _ s).kept (frame_keepsIdle _ _ s) h
  | sendData bs => exact (frame_sends _ _ s).kept (frame_keepsIdle _ _ s) h
  | reset => exact absurd rfl hi
  | initializePanel =>
    obtain ⟨u, hu, ht⟩ := Run.andThen_eq_done h
    cases ht
    obtain ⟨hrst, hcs, hidle, hinv, hlive⟩ := (emitTable_sends _ _).kept (emitTable_keepsIdle _ _) hu
    exact ⟨hrst, hcs, hidle, hinv, hlive⟩
  | setRotation r =>
    rw [bodyOf, setRotationBody_eq] at h
    obtain ⟨u, hu, ht⟩ := Run.andThen_eq_done h
    cases ht
    obtain ⟨hrst, hcs, hidle, hinv, hlive⟩ := (rotationFrames_sends _ s).kept
      ((frame_keepsIdle _ _ s).andThen fun _ => frame_keepsIdle _ _ _) hu
    exact ⟨hrst, hcs, hidle, hinv, hlive⟩
  | setAddressWindow x0 y0 x1 y1 => exact (windowSeq_sends _ _ _ _ s).kept (windowSeq_keepsIdle _ _ _ _ s) h
  | fillRegion x y w ht color =>
    exact (fillRegionBody_sends _ _ _ _ _ s).kept (fillRegionBody_keepsIdle _ _ _ _ _ s) h
  | fillScreen color => exact (fillSeq_sends _ _ s).kept (fillSeq_keepsIdle _ _ s) h
  | setPixel x y color => exact (setPixelBody_sends _ _ _ s).kept (setPixelBody_keepsIdle _ _ _ s) h
  | _ => exact (Sends.refl s).kept (.refl s) h

theorem raisedBy_ne_none (e : Event) : raisedBy e ≠ .none := by
  cases e <;> simp [raisedBy]

/-- A request that completed has run its body to the end. -/
theorem Completed.body {i : Instr} {s t : State} (hi : Ordinary i) (he : exec i s = .next t)
    (ht : Completed i s t) : ∃ u, bodyOf i s = .done u ∧ t = endRequest s (u.setErr .none) := by
  cases (exec_eq_request hi s).symm.trans he
  have herr := ht.err
  rcases request_cases (permittedOf i) (boundsOf i) (bodyOf i) s with ⟨-, h⟩ | ⟨-, -, h⟩ | ⟨-, -, h⟩ <;>
    rw [h] at herr ⊢
  · cases herr
  · cases herr
  · cases hb : bodyOf i s with
    | done u => exact ⟨u, rfl, rfl⟩
    | raised err u =>
      have hf := bodyOf_follows hi s
      rw [hb] at hf herr
      obtain ⟨n, e, e', ok, -, -, -, rfl⟩ := hf
      exact absurd herr (by simp [finish, faultEntry, raisedBy_ne_none])

/-! ### The invariant through the ends of a request -/

theorem setErr_Inv {s : State} (h : s.Inv) (e : ErrCode) : (s.setErr e).Inv := h

/-- A failed request is in `Faulted` with an indeterminate panel, where only CLAIMED and CS are still asked
for. -/
theorem Failed.inv {s t : State} (hs : s.Inv) (hclosed : s.block.state ≠ .closed) (h : Failed s t) : t.Inv := by
  obtain ⟨hvalid, hbus, ⟨-, hclaimed, hcs, -⟩, -⟩ := hs
  refine ⟨h.around.params ▸ hvalid, h.around.bus.trans hbus, ⟨?_, ?_, h.cs hcs, ?_, ?_, ?_⟩, ?_, ?_, ?_⟩
  · simp [h.state]
  · simp [h.state, h.claimed, hclaimed, hclosed]
  · simp [h.state]
  · simp [h.state]
  · simp [h.state]
  · rw [h.panel]
    exact Panel.blank_Inv _ _
  · simp [h.panel, h.state]
  · simp [h.state]

/-- CLOSE outside `Closed`: the three releases and the first failure's error, a block that holds no line and
knows no level, and an indeterminate panel (41_controller.md R108, R110). -/
theorem closeRequest_releases {s : State} (hs : s.block.state ≠ .closed) :
    ∃ a b c, (closeRequest s).trace = s.trace ++
        [.release .dc (Answer.isOk a), .release .rst (Answer.isOk b), .release .cs (Answer.isOk c)] ∧
      (closeRequest s).block = { s.block with
        state := .closed, claimed := false, lineDC := .unknown, lineRST := .unknown, lineCS := .unknown,
        lastErr := if Answer.isOk a ∧ Answer.isOk b ∧ Answer.isOk c then .none else .lineControl } ∧
      (closeRequest s).panel = Panel.indeterminate ∧ Carried 3 s (closeRequest s) ∧
      ∀ a' b' c' rest, s.answers = a' :: b' :: c' :: rest → a = a' ∧ b = b' ∧ c = c' := by
  obtain ⟨a, b, c, htrace, herr, hblock, hpanel, hcarried, hanswers⟩ := releaseAll_spec s
  refine ⟨a, b, c, ?_, ?_, ?_, ?_, hanswers⟩ <;> simp only [closeRequest, hs, if_false]
  · simpa [closeBlock] using htrace
  · simp [closeBlock, hblock, herr]
  · simp [endRequest_panel, closeBlock, hpanel]
  · simpa [Carried, closeBlock] using hcarried

theorem closeRequest_Inv {s : State} (hs : s.Inv) : (closeRequest s).Inv := by
  by_cases hclosed : s.block.state = .closed
  · rw [closeRequest, if_pos hclosed]
    exact setErr_Inv hs _
  · obtain ⟨a, b, c, -, hblock, hpanel, ⟨hpar, -, -, hbus, -⟩, -⟩ := closeRequest_releases hclosed
    obtain ⟨hvalid, hidle, -⟩ := hs
    refine ⟨hpar ▸ hvalid, hbus.trans hidle, ?_, ?_, ?_, ?_⟩
    · simp [hblock, Block.Inv]
    · rw [hpanel]
      exact Panel.blank_Inv _ _
    · simp [hpanel, hblock]
    · simp [hblock]

/-- A completed request whose body keeps the lines and the panel, and that leaves S.STATE as it was. -/
theorem Kept.inv_of_sameState {s t : State} (hs : s.Inv) (ha : Around s t)
    (hclaimed : t.block.claimed = s.block.claimed) (hk : Kept s t)
    (hstate : t.block.state = s.block.state) (hclosed : s.block.state ≠ .closed)
    (hgrow : s.block.state ≠ .ready → t.trace.length ≠ s.trace.length) :
    (endRequest s (t.setErr .none)).Inv := by
  obtain ⟨hvalid, hbus, ⟨hconf, hcl, hcs, hrst, hready, -⟩, hpanel, hlive, hafter⟩ := hs
  have hnew : (endRequest s (t.setErr .none)).panel =
      if s.block.state = .ready then t.panel else t.panel.contentsUnknown := by
    by_cases h : s.block.state = .ready
    · simp [endRequest_panel, h]
    · simp [endRequest_panel, h, hgrow h]
  refine ⟨?_, ?_, ⟨?_, ?_, ?_, ?_, ?_, ?_⟩, ?_, ?_, ?_⟩
  · simpa [ha.params] using hvalid
  · simpa [ha.bus] using hbus
  all_goals simp only [endRequest_block, endRequest_params, State.setErr_block, State.setErr_params, hstate,
    hclaimed, ha.params, hnew, hk.rst]
  · exact hconf
  · exact hcl
  · exact hk.cs hcs
  · exact hrst
  · exact fun h => hk.idle (hready h)
  · exact fun h => absurd h hclosed
  · split
    · exact hk.panelInv hpanel
    · exact Panel.contentsUnknown_Inv _ _
  · rw [← hlive, ← hk.live]
    split <;> rfl
  · intro h
    rw [if_neg (by simp [h]), Panel.contentsUnknown, hk.live, hlive.2 (.inl h)]
    rfl

/-- INITIALIZE's completed table: the lines idle, RST still high, and the panel live as it was. -/
theorem Kept.inv_of_ready {s t : State} (hs : s.Inv) (ha : Around s t)
    (hclaimed : t.block.claimed = s.block.claimed) (hk : Kept s t) (hresetting : s.block.state = .resetting)
    (hstate : t.block.state = .ready) (hidle : LinesIdle t.block) : (endRequest s (t.setErr .none)).Inv := by
  obtain ⟨hvalid, hbus, ⟨-, hcl, hcs, hrst, -⟩, hpanel, hlive, -⟩ := hs
  refine ⟨?_, ?_, ⟨?_, ?_, ?_, ?_, ?_, ?_⟩, ?_, ?_, ?_⟩
  · simpa [ha.params] using hvalid
  · simpa [ha.bus] using hbus
  all_goals simp only [endRequest_block, endRequest_params, endRequest_panel_live, State.setErr_block,
    State.setErr_params, State.setErr_panel, hstate, hclaimed, ha.params, hk.rst, hk.live]
  · simp
  · simpa [hresetting] using hcl
  · exact hk.cs hcs
  · exact fun _ => hrst (.inl hresetting)
  · exact fun _ => hidle
  · simp
  · rw [endRequest_panel]
    split
    · exact hk.panelInv hpanel
    · exact Panel.contentsUnknown_Inv _ _
  · simpa [hresetting] using hlive
  · simp

/-- RESET's completed pulse: RST high, CS as it was, and the panel reset. -/
theorem resetBody_eq_done {s t : State} (h : resetBody s = .done t) :
    t.trace = s.trace ++ pulseEvents ∧ t.panel = Panel.afterReset ∧ t.block.lineRST = .known .high ∧
      t.block.lineCS = s.block.lineCS := by
  obtain ⟨u, hu, ht⟩ := Run.andThen_eq_done h
  cases ht
  obtain ⟨evs, htrace, -, -, -, hcs, hends⟩ := resetPulse_cases (s.setState .resetting)
  rw [hu] at htrace hcs hends
  rcases hends with ⟨v, hv, rfl, hrst⟩ | ⟨v, hv, -⟩ <;> cases hv
  exact ⟨htrace, rfl, hrst, hcs⟩

theorem endRequest_panel_of_afterReset {s t : State} (h : t.panel = Panel.afterReset) :
    (endRequest s t).panel = Panel.afterReset := by
  rw [endRequest_panel]
  split <;> simp [h]

theorem resetBody_inv {s t : State} (hs : s.Inv) (ha : Around s t) (hclaimed : t.block.claimed = s.block.claimed)
    (hclosed : s.block.state ≠ .closed) (hstate : t.block.state = .resetting) (h : resetBody s = .done t) :
    (endRequest s (t.setErr .none)).Inv := by
  obtain ⟨hvalid, hbus, ⟨-, hcl, hcs, -⟩, -⟩ := hs
  obtain ⟨-, hpanel, hrst, hcs'⟩ := resetBody_eq_done h
  have hnew : (endRequest s (t.setErr .none)).panel = Panel.afterReset := endRequest_panel_of_afterReset hpanel
  refine ⟨?_, ?_, ⟨?_, ?_, ?_, ?_, ?_, ?_⟩, ?_, ?_, ?_⟩
  · simpa [ha.params] using hvalid
  · simpa [ha.bus] using hbus
  all_goals simp only [endRequest_block, State.setErr_block, hstate, hclaimed, hnew, hrst, hcs']
  · simp
  · simpa [hclosed] using hcl
  · exact hcs
  · simp
  · simp
  · simp
  · exact Panel.blank_Inv _ _
  · simp [Panel.afterReset]
  · simp

/-- Only the framer's requests, RESET and INITIALIZE run outside `Ready`, and a transaction that completes
emits events. -/
theorem bodyOf_trace_grows {i : Instr} {s t : State} (hi : Ordinary i) (hreset : i ≠ .reset)
    (hinit : i ≠ .initializePanel) (hs : s.block.state ∈ permissionTable i) (hready : s.block.state ≠ .ready)
    (h : bodyOf i s = .done t) : t.trace.length ≠ s.trace.length := by
  cases i with
  | sendCmd cmd =>
    rw [frame_eq_done h]
    simp [frameDone, frameEvents]
  | sendData bs =>
    rw [frame_eq_done h]
    simp [frameDone, frameEvents]
  | reset => exact absurd rfl hreset
  | initializePanel => exact absurd rfl hinit
  | close => exact absurd rfl hi.2.2
  | _ => simp [permissionTable, hready] at hs

theorem Completed.inv {i : Instr} {s t : State} (hs : s.Inv) (hi : Ordinary i)
    (hperm : s.block.state ∈ permissionTable i) (he : exec i s = .next t) (h : Completed i s t) : t.Inv := by
  obtain ⟨u, hu, rfl⟩ := h.body hi he
  have hclosed : s.block.state ≠ .closed := fun hc => (permissionTable_of_ordinary hi).1 (hc ▸ hperm)
  have ha : Around s u := by
    have := h.around
    exact ⟨by simpa using this.params, by simpa using this.bus, by simpa using this.accesses,
      by simpa using this.req, by simpa using this.payload, by simpa using this.readData⟩
  have hclaimed : u.block.claimed = s.block.claimed := by simpa using h.claimed
  have hstate : u.block.state = stateAfter s i := by simpa using h.state
  rcases stateAfter_cases s i with ⟨rfl, hafter⟩ | ⟨rfl, hafter⟩ | ⟨hreset, hinit, hafter⟩
  · exact resetBody_inv hs ha hclaimed hclosed (hstate.trans hafter) hu
  · obtain ⟨c, ps, hcmd⟩ := initTable_cmd_mem hs.1
    obtain ⟨v, hv, hvu⟩ := Run.andThen_eq_done hu
    have hidle : LinesIdle v.block := emitTable_linesIdle hcmd hv
    cases hvu
    have hresetting : s.block.state = .resetting := by simpa [permissionTable] using hperm
    exact (bodyOf_kept (by simp) hu).inv_of_ready hs ha hclaimed hresetting (hstate.trans hafter) hidle
  · exact (bodyOf_kept hreset hu).inv_of_sameState hs ha hclaimed (hstate.trans hafter) hclosed
      fun hready => bodyOf_trace_grows hi hreset hinit hperm hready hu

theorem exec_Inv {i : Instr} {s t : State} (hreq : i.isRequest = true) (hs : s.Inv) (he : exec i s = .next t) :
    t.Inv := by
  cases ExecEnds.of_exec he with
  | panelCommand c hi => simp [hreq] at hi
  | reserved hi => exact setErr_Inv hs _
  | closeAgain hi hc => exact setErr_Inv hs _
  | close t hi hc ht =>
    subst hi
    cases he
    exact closeRequest_Inv hs
  | notPermitted hi hp => exact setErr_Inv hs _
  | outOfBounds hi hp hb => exact setErr_Inv hs _
  | failed t hi hp ht => exact ht.inv hs fun hc => (permissionTable_of_ordinary hi).1 (hc ▸ hp)
  | completed t hi hp ht => exact ht.inv hs hi hp he

/-- The invariant speaks of nothing but the parameters, the block, the panel and the bus. -/
theorem SameCore.inv {s t : State} (h : SameCore s t) (hbus : t.bus = []) (hs : s.Inv) : t.Inv := by
  obtain ⟨hvalid, -, hblock, hpanel, hlive, hafter⟩ := hs
  obtain ⟨hp, hb, hpn, -⟩ := h
  rw [State.Inv, hp, hb, hpn]
  exact ⟨hvalid, hbus, hblock, hpanel, hlive, hafter⟩

/-- Settles O14: with the bus idle a step runs a request, which keeps the invariant at each of its ends, or
changes only the host's streams. -/
theorem stepKeepsInvariant : Obligations.StepKeepsInvariant := by
  intro s t hs h
  have hbus : s.bus = [] := hs.2.1
  rcases step_cases h with ⟨i, u, he, hu, hreq⟩ | ⟨b, rest, hb, -⟩ | ⟨hcore, hb⟩
  · obtain ⟨hub, hreq⟩ := hreq hbus
    exact exec_Inv hreq (hu.inv hub hs) he
  · simp [hbus] at hb
  · exact hcore.inv (hb.trans hbus) hs

/-! ### A panel that is not live -/

/-- A body other than RESET's leaves an indeterminate panel so. -/
theorem Kept.indeterminate {s t : State} (hk : Kept s t) (hp : s.panel = Panel.indeterminate) :
    t.panel = Panel.indeterminate := by
  have hinv : t.panel.Inv s.params := hk.panelInv (hp ▸ Panel.blank_Inv _ _)
  exact hinv.2.2.2.2 (by rw [hk.live, hp]; rfl)

/-- An instruction in a state whose panel is not live: it stays so, or the instruction is a RESET that
completes. -/
theorem exec_of_indeterminate {i : Instr} {s t : State} (hp : s.panel = Panel.indeterminate)
    (he : exec i s = .next t) :
    t.panel = Panel.indeterminate ∨
      (t.panel = Panel.afterReset ∧ t.block.state = .resetting ∧ t.block.lastErr = .none ∧
        t.trace = s.trace ++ pulseEvents) := by
  cases ExecEnds.of_exec he with
  | panelCommand c hi => exact .inl (by simp [hp, Panel.command])
  | reserved hi => exact .inl hp
  | closeAgain hi hc => exact .inl hp
  | close t hi hc ht => exact .inl ht.panel
  | notPermitted hi hs => exact .inl hp
  | outOfBounds hi hs hb => exact .inl hp
  | failed t hi hs ht => exact .inl ht.panel
  | completed t hi hs ht =>
    obtain ⟨u, hu, rfl⟩ := ht.body hi he
    by_cases hreset : i = .reset
    · subst hreset
      obtain ⟨htrace, hpanel, -⟩ := resetBody_eq_done hu
      exact .inr ⟨endRequest_panel_of_afterReset hpanel, ht.state, ht.err, by simpa using htrace⟩
    · have hu' := (bodyOf_kept hreset hu).indeterminate hp
      left
      rw [endRequest_panel]
      split <;> simp [hu']

/-- Settles O58: neither a byte nor an access revives the panel, and of the instructions only a RESET does. -/
theorem panelLiveOnlyByCompletedReset : Obligations.PanelLiveOnlyByCompletedReset := by
  intro s t hp h
  rcases step_cases h with ⟨i, u, he, hu, -⟩ | ⟨b, rest, -, rfl⟩ | ⟨hcore, -⟩
  · rcases exec_of_indeterminate (hu.panel.trans hp) he with hi | ⟨hpanel, hstate, herr, htrace⟩
    · exact .inl hi
    · exact .inr ⟨hpanel, hstate, herr, _, hu.trace ▸ htrace, rfl⟩
  · exact .inl (Panel.readByte_of_not_live (by rw [hp]; rfl))
  · exact .inl (hcore.panel.trans hp)

end Sys2Proof.Machine
end

section
/-!
PROOFS. What no request reads (10_state.md sections 3 and 5): a relation between states that every primitive
respects is respected by every request, and two such relations are equality up to LAST_ERR and equality of
everything but the line shadows and the panel.
-/

namespace Sys2Proof.Machine

/-! ### Relations that the primitives respect -/

/-- A relation between states that fix the same control flow, kept by every primitive of a request. -/
structure Respected (R : State → State → Prop) : Prop where
  params : ∀ {s s'}, R s s' → s'.params = s.params
  state : ∀ {s s'}, R s s' → s'.block.state = s.block.state
  rot : ∀ {s s'}, R s s' → s'.block.rot = s.block.rot
  nextAnswer : ∀ {s s'}, R s s' → s'.nextAnswer = s.nextAnswer
  lineDriven : ∀ {s s'} l lv, R s s' → R (lineDriven l lv s) (lineDriven l lv s')
  lineFailed : ∀ {s s'} l lv, R s s' → R (lineFailed l lv s) (lineFailed l lv s')
  bytesSent : ∀ {s s'} bs, R s s' → R (bytesSent bs s) (bytesSent bs s')
  bytesCut : ∀ {s s'} bs k, R s s' → R (bytesCut bs k s) (bytesCut bs k s')
  delay : ∀ {s s'} ms, R s s' → R (delay ms s) (delay ms s')
  release : ∀ {s s'} l, R s s' → R (release l s) (release l s')
  setState : ∀ {s s'} v, R s s' → R (s.setState v) (s'.setState v)
  setRot : ∀ {s s'} i, R s s' → R (s.setRot i) (s'.setRot i)
  setPanel : ∀ {s s'} p, R s s' → R (s.setPanel p) (s'.setPanel p)

/-- Two runs that end alike, in related states. -/
inductive RunRel (R : State → State → Prop) : Run → Run → Prop where
  | done {s s' : State} (h : R s s') : RunRel R (.done s) (.done s')
  | raised (e : ErrCode) {s s' : State} (h : R s s') : RunRel R (.raised e s) (.raised e s')

theorem RunRel.andThen {R : State → State → Prop} {r r' : Run} {f f' : State → Run} (h : RunRel R r r')
    (hf : ∀ s s', R s s' → RunRel R (f s) (f' s')) : RunRel R (r.andThen f) (r'.andThen f') := by
  cases h with
  | done h => exact hf _ _ h
  | raised e h => exact .raised e h

section Pieces

variable {R : State → State → Prop} (hR : Respected R)
include hR

theorem Respected.setLine (l : LineName) (lv : Level) {s s' : State} (h : R s s') :
    RunRel R (Machine.setLine l lv s) (Machine.setLine l lv s') := by
  unfold Machine.setLine
  rw [hR.nextAnswer h]
  cases s.nextAnswer with
  | ok => exact .done (hR.lineDriven l lv h)
  | fail k => exact .raised _ (hR.lineFailed l lv h)

theorem Respected.write (bs : List Byte) {s s' : State} (h : R s s') :
    RunRel R (Machine.write bs s) (Machine.write bs s') := by
  unfold Machine.write
  rw [hR.nextAnswer h]
  cases s.nextAnswer with
  | ok => exact .done (hR.bytesSent bs h)
  | fail k => exact .raised _ (hR.bytesCut bs k h)

theorem Respected.orDeassert {r r' : Run} (h : RunRel R r r') : RunRel R r.orDeassert r'.orDeassert := by
  cases h with
  | done h => exact .done h
  | raised e h =>
    refine .raised e ?_
    rw [deassertAttempt_eq, deassertAttempt_eq, hR.nextAnswer h]
    split
    · exact hR.lineDriven _ _ h
    · exact hR.lineFailed _ _ h

theorem Respected.frame (dc : Level) (bs : List Byte) {s s' : State} (h : R s s') :
    RunRel R (Machine.frame dc bs s) (Machine.frame dc bs s') :=
  (hR.setLine _ _ h).andThen fun _ _ h =>
    (hR.orDeassert ((hR.setLine _ _ h).andThen fun _ _ h => hR.write bs h)).andThen fun _ _ h => hR.setLine _ _ h

theorem Respected.windowSeq (x0 y0 x1 y1 : Nat) {s s' : State} (h : R s s') :
    RunRel R (Machine.windowSeq x0 y0 x1 y1 s) (Machine.windowSeq x0 y0 x1 y1 s') :=
  (hR.frame _ _ h).andThen fun _ _ h => (hR.frame _ _ h).andThen fun _ _ h =>
    (hR.frame _ _ h).andThen fun _ _ h => (hR.frame _ _ h).andThen fun _ _ h => hR.frame _ _ h

theorem Respected.dataFrames (bss : List (List Byte)) {s s' : State} (h : R s s') :
    RunRel R (Machine.dataFrames bss s) (Machine.dataFrames bss s') := by
  induction bss generalizing s s' with
  | nil => exact .done h
  | cons bs bss ih => exact (hR.frame _ _ h).andThen fun _ _ h => ih h

theorem Respected.fillSeq (r : Rect) (c : Half) {s s' : State} (h : R s s') :
    RunRel R (Machine.fillSeq r c s) (Machine.fillSeq r c s') := by
  unfold Machine.fillSeq
  rw [hR.params h]
  exact (hR.windowSeq _ _ _ _ h).andThen fun _ _ h => hR.dataFrames _ h

theorem Respected.emitEntry (e : InitEntry) {s s' : State} (h : R s s') :
    RunRel R (Machine.emitEntry e s) (Machine.emitEntry e s') := by
  cases e with
  | wait ms => exact .done (hR.delay ms h)
  | cmd c ps =>
    refine (hR.frame _ _ h).andThen fun _ _ h => ?_
    split
    · exact .done h
    · exact hR.frame _ _ h

theorem Respected.emitTable (es : List InitEntry) {s s' : State} (h : R s s') :
    RunRel R (Machine.emitTable es s) (Machine.emitTable es s') := by
  induction es generalizing s s' with
  | nil => exact .done h
  | cons e es ih => exact (hR.emitEntry e h).andThen fun _ _ h => ih h

theorem Respected.resetBody {s s' : State} (h : R s s') :
    RunRel R (Machine.resetBody s) (Machine.resetBody s') := by
  refine RunRel.andThen ?_ fun _ _ h => .done (hR.setPanel _ h)
  exact (hR.setLine _ _ (hR.setState _ h)).andThen fun _ _ h =>
    (hR.setLine _ _ (hR.delay _ h)).andThen fun _ _ h =>
      (hR.setLine _ _ (hR.delay _ h)).andThen fun _ _ h => .done (hR.delay _ h)

theorem Respected.size {s s' : State} (h : R s s') : s'.width = s.width ∧ s'.height = s.height := by
  simp [State.width, State.height, hR.params h, hR.rot h]

/-- Every body runs alike in related states. -/
theorem Respected.bodyOf (i : Instr) {s s' : State} (h : R s s') :
    RunRel R (Machine.bodyOf i s) (Machine.bodyOf i s') := by
  obtain ⟨hw, hh⟩ := hR.size h
  cases i with
  | sendCmd cmd => exact hR.frame _ _ h
  | sendData bs => exact hR.frame _ _ h
  | reset => exact hR.resetBody h
  | initializePanel =>
    simp only [Machine.bodyOf, initializeBody, hR.params h]
    exact (hR.emitTable _ (hR.setState _ h)).andThen fun _ _ h => .done (hR.setState _ h)
  | setRotation r =>
    exact (hR.frame _ _ h).andThen fun _ _ h => (hR.frame _ _ h).andThen fun _ _ h => .done (hR.setRot _ h)
  | setAddressWindow x0 y0 x1 y1 => exact hR.windowSeq _ _ _ _ h
  | fillRegion x y w ht color =>
    simp only [Machine.bodyOf, fillRegionBody, hw, hh]
    split
    · exact .done h
    · exact hR.fillSeq _ _ h
  | fillScreen color =>
    simp only [Machine.bodyOf, fillScreenBody, hw, hh]
    exact hR.fillSeq _ _ h
  | setPixel x y color =>
    simp only [Machine.bodyOf, setPixelBody, hw, hh]
    split
    · exact (hR.windowSeq _ _ _ _ h).andThen fun _ _ h => hR.frame _ _ h
    · exact .done h
  | _ => exact .done h

theorem Respected.boundsOf (i : Instr) {s s' : State} (h : R s s') : Machine.boundsOf i s' = Machine.boundsOf i s := by
  obtain ⟨hw, hh⟩ := hR.size h
  cases i with
  | setAddressWindow x0 y0 x1 y1 => simp only [Machine.boundsOf, windowInFrame, hw, hh]
  | _ => rfl

/-- CLOSE's loop runs alike in related states. -/
theorem Respected.releaseAll (ls : List LineName) (err : ErrCode) {s s' : State} (h : R s s') :
    (Machine.releaseAll ls err s').1 = (Machine.releaseAll ls err s).1 ∧
      R (Machine.releaseAll ls err s).2 (Machine.releaseAll ls err s').2 := by
  induction ls generalizing err s s' with
  | nil => exact ⟨rfl, h⟩
  | cons l ls ih =>
    simp only [Machine.releaseAll, hR.nextAnswer h]
    exact ih _ (hR.release l h)

end Pieces

/-! ### LAST_ERR -/

/-- Equal but for LAST_ERR, which is `e` in the second. -/
def WithErr (e : ErrCode) (s s' : State) : Prop := s' = s.setErr e

theorem withErr_respected (e : ErrCode) : Respected (WithErr e) where
  params := by rintro s _ rfl; rfl
  state := by rintro s _ rfl; rfl
  rot := by rintro s _ rfl; rfl
  nextAnswer := by rintro s _ rfl; rfl
  lineDriven := by rintro s _ l lv rfl; cases l <;> rfl
  lineFailed := by rintro s _ l lv rfl; cases l <;> rfl
  bytesSent := by rintro s _ bs rfl; rfl
  bytesCut := by rintro s _ bs k rfl; rfl
  delay := by rintro s _ ms rfl; rfl
  release := by rintro s _ l rfl; cases l <;> rfl
  setState := by rintro s _ v rfl; rfl
  setRot := by rintro s _ i rfl; rfl
  setPanel := by rintro s _ p rfl; rfl

/-- The end of a request writes LAST_ERR, so it forgets what it was. -/
theorem finish_of_withErr {e : ErrCode} {r r' : Run} (h : RunRel (WithErr e) r r') : finish r' = finish r := by
  cases h with
  | done h =>
    rw [h]
    rfl
  | raised err h =>
    rw [h]
    rfl

theorem request_setErr {i : Instr} (s : State) (e : ErrCode) :
    request (permittedOf i) (boundsOf i) (bodyOf i) (s.setErr e) =
      request (permittedOf i) (boundsOf i) (bodyOf i) s := by
  have hbody := finish_of_withErr ((withErr_respected e).bodyOf i (s := s) rfl)
  have hbounds : boundsOf i (s.setErr e) = boundsOf i s := (withErr_respected e).boundsOf i rfl
  simp only [request, hbody, hbounds]
  rfl

theorem closeRequest_setErr (s : State) (e : ErrCode) : closeRequest (s.setErr e) = closeRequest s := by
  obtain ⟨herr, hrel⟩ := (withErr_respected e).releaseAll [.dc, .rst, .cs] .none (s := s) rfl
  simp only [closeRequest, herr]
  rw [hrel]
  rfl

/-- Settles O50: every request writes LAST_ERR, and nothing it does before reads it. -/
theorem lastErrIsNeverRead : Obligations.LastErrIsNeverRead := by
  intro i s e hreq
  have h : exec i (s.setErr e) = exec i s := by
    rcases instr_kinds i with hreq' | hres | rfl | hord
    · simp [hreq] at hreq'
    · rw [exec_of_reserved hres, exec_of_reserved hres]
      rfl
    · exact congrArg Host.Outcome.next (closeRequest_setErr s e)
    · rw [exec_eq_request hord, exec_eq_request hord, request_setErr]
  exact h

/-! ### The line shadows and the panel -/

/-- Equal in the parameters, the trace, the oracle and the block but for its line shadows. -/
structure SameControl (s s' : State) : Prop where
  params : s'.params = s.params
  trace : s'.trace = s.trace
  state : s'.block.state = s.block.state
  rot : s'.block.rot = s.block.rot
  lastErr : s'.block.lastErr = s.block.lastErr
  claimed : s'.block.claimed = s.block.claimed
  answers : s'.answers = s.answers
  asked : s'.asked = s.asked

theorem SameControl.nextAnswer {s s' : State} (h : SameControl s s') : s'.nextAnswer = s.nextAnswer := by
  rw [State.nextAnswer, State.nextAnswer, h.answers, h.asked]

theorem sameControl_respected : Respected SameControl where
  params h := h.params
  state h := h.state
  rot h := h.rot
  nextAnswer h := h.nextAnswer
  lineDriven l lv h := by
    constructor <;> simp [lineDriven, h.params, h.trace, h.state, h.rot, h.lastErr, h.claimed, h.answers, h.asked]
  lineFailed l lv h := by
    constructor <;> simp [lineFailed, h.params, h.trace, h.state, h.rot, h.lastErr, h.claimed, h.answers, h.asked]
  bytesSent bs h := by
    constructor <;> simp [bytesSent, h.params, h.trace, h.state, h.rot, h.lastErr, h.claimed, h.answers, h.asked]
  bytesCut bs k h := by
    constructor <;> simp [bytesCut, h.params, h.trace, h.state, h.rot, h.lastErr, h.claimed, h.answers, h.asked]
  delay ms h := by
    constructor <;> simp [delay, h.params, h.trace, h.state, h.rot, h.lastErr, h.claimed, h.answers, h.asked]
  release l h := by
    constructor <;> simp [release, h.params, h.trace, h.state, h.rot, h.lastErr, h.claimed, h.answers, h.asked,
      h.nextAnswer]
  setState v h := ⟨h.params, h.trace, rfl, h.rot, h.lastErr, h.claimed, h.answers, h.asked⟩
  setRot i h := ⟨h.params, h.trace, h.state, rfl, h.lastErr, h.claimed, h.answers, h.asked⟩
  setPanel p h := ⟨h.params, h.trace, h.state, h.rot, h.lastErr, h.claimed, h.answers, h.asked⟩

theorem SameControl.setErr {s s' : State} (h : SameControl s s') (e : ErrCode) :
    SameControl (s.setErr e) (s'.setErr e) :=
  ⟨h.params, h.trace, h.state, h.rot, rfl, h.claimed, h.answers, h.asked⟩

theorem SameControl.finish {r r' : Run} (h : RunRel SameControl r r') : SameControl (finish r) (finish r') := by
  cases h with
  | done h => exact h.setErr .none
  | raised e h => exact (sameControl_respected.setState .faulted h).setErr e

/-- The end of a request touches only the panel. -/
theorem SameControl.endRequest {s s' t t' : State} (h : SameControl t t') :
    SameControl (endRequest s t) (endRequest s' t') := by
  constructor <;> simp [h.params, h.trace, h.state, h.rot, h.lastErr, h.claimed, h.answers, h.asked]

theorem request_sameControl (i : Instr) {s s' : State} (h : SameControl s s') :
    SameControl (request (permittedOf i) (boundsOf i) (bodyOf i) s)
      (request (permittedOf i) (boundsOf i) (bodyOf i) s') := by
  unfold request
  rw [h.state, sameControl_respected.boundsOf i h]
  split
  · split
    · exact (SameControl.finish (sameControl_respected.bodyOf i h)).endRequest
    · exact h.setErr _
  · exact h.setErr _

theorem closeRequest_sameControl {s s' : State} (h : SameControl s s') :
    SameControl (closeRequest s) (closeRequest s') := by
  obtain ⟨herr, hrel⟩ := sameControl_respected.releaseAll [.dc, .rst, .cs] .none h
  simp only [closeRequest, h.state, herr]
  split
  · exact h.setErr _
  · exact SameControl.endRequest ⟨hrel.params, hrel.trace, rfl, hrel.rot, rfl, rfl, hrel.answers, hrel.asked⟩

theorem exec_sameControl {i : Instr} (hreq : i.isRequest = true) {s s' t : State} (h : SameControl s s')
    (he : exec i s = .next t) : ∃ t', exec i s' = .next t' ∧ SameControl t t' := by
  rcases instr_kinds i with hreq' | hres | rfl | hord
  · simp [hreq] at hreq'
  · cases (exec_of_reserved hres s).symm.trans he
    exact ⟨_, exec_of_reserved hres s', h.setErr _⟩
  · cases he
    exact ⟨_, rfl, closeRequest_sameControl h⟩
  · cases (exec_eq_request hord s).symm.trans he
    exact ⟨_, exec_eq_request hord s', request_sameControl i h⟩

/-- Settles O51: a state with other line shadows and another panel has the same control, and every request
keeps it so. -/
theorem shadowsAndPanelAreNeverRead : Obligations.ShadowsAndPanelAreNeverRead := by
  intro i s t d r c p hreq he
  obtain ⟨t', he', h⟩ := exec_sameControl hreq (s := s) (s' := { s with
    block := { s.block with lineDC := d, lineRST := r, lineCS := c }, panel := p })
    ⟨rfl, rfl, rfl, rfl, rfl, rfl, rfl, rfl⟩ he
  exact ⟨t', he', h.trace, h.state, h.rot, h.lastErr, h.claimed, h.answers, h.asked⟩

end Sys2Proof.Machine
end

section
/-!
PROOFS. The panel byte by byte (20_memory.md section 6): the four command bytes with the half pixel they drop,
the data bytes of their contexts, and a window sequence as a whole.
-/

namespace Sys2Proof.Machine

/-! ### One byte -/

theorem Panel.readBytes_single (cfg : Params) (dc : Level) (b : Byte) (p : Panel) :
    p.readBytes cfg dc [b] = p.readByte cfg dc b := by
  rw [Panel.readBytes_cons, Panel.readBytes_nil, Panel.readByte_settle]

section Live

variable {cfg : Params} {p : Panel} (hl : p.live = true)
include hl

theorem Panel.command_columns : p.command cfg 0x2A#8 = (p.dropHalf cfg).columnAddressSet := by
  simp [Panel.command, hl]

theorem Panel.command_rows : p.command cfg 0x2B#8 = (p.dropHalf cfg).rowAddressSet := by
  simp [Panel.command, hl]

theorem Panel.command_memoryWrite : p.command cfg 0x2C#8 = (p.dropHalf cfg).memoryWrite := by
  simp [Panel.command, hl]

theorem Panel.command_accessControl : p.command cfg 0x36#8 = (p.dropHalf cfg).memoryAccessControl := by
  simp [Panel.command, hl]

theorem Panel.command_other {c : Byte} (hc : c ∉ [0x2A#8, 0x2B#8, 0x2C#8, 0x36#8]) :
    p.command cfg c = p.otherCommand c := by
  simp only [List.mem_cons, List.not_mem_nil, or_false, not_or] at hc
  simp [Panel.command, hl, hc]

theorem Panel.data_columns (hc : p.cmd = some 0x2A#8) (b : Byte) :
    p.data cfg b = { p with args := p.args ++ [b], cols := latchSpan (p.args ++ [b]) p.cols } := by
  simp [Panel.data, hl, hc]

theorem Panel.data_rows (hc : p.cmd = some 0x2B#8) (b : Byte) :
    p.data cfg b = { p with args := p.args ++ [b], rows := latchSpan (p.args ++ [b]) p.rows } := by
  simp [Panel.data, hl, hc]

theorem Panel.data_accessControl (hc : p.cmd = some 0x36#8) (b : Byte) :
    p.data cfg b = p.accessControlData b := by
  simp [Panel.data, hl, hc]

theorem Panel.data_other {c : Byte} (hc : p.cmd = some c) (hne : c ∉ [0x2A#8, 0x2B#8, 0x2C#8, 0x36#8])
    (b : Byte) : p.data cfg b = p.otherCommand c := by
  simp only [List.mem_cons, List.not_mem_nil, or_false, not_or] at hne
  simp [Panel.data, hl, hc, hne]

theorem Panel.data_loose (hc : p.cmd = none) (b : Byte) : p.data cfg b = Panel.blank true := by
  simp [Panel.data, hl, hc, Panel.contentsUnknown]

end Live

/-! ### The half pixel a command byte drops (20_memory.md R66) -/

/-- Dropping a half pixel writes at most the half pixel and the frame. -/
theorem Panel.dropHalf_eq (cfg : Params) (p : Panel) :
    p.dropHalf cfg = { p with half := (p.dropHalf cfg).half, fb := (p.dropHalf cfg).fb } := by
  unfold Panel.dropHalf
  repeat' split
  all_goals rfl

theorem Panel.dropHalf_half {cfg : Params} {p : Panel} (h : p.half = none ∨ p.cmd = some 0x2C#8) :
    (p.dropHalf cfg).half = none := by
  by_cases hn : p.half = none
  · rw [Panel.dropHalf_none hn, hn]
  · have hc := h.resolve_left hn
    simp only [Panel.dropHalf, hc, ne_eq, hn, not_false_eq_true, and_self, if_true]
    repeat' split
    all_goals rfl

/-- What a pixel reads as once a half pixel has been dropped. -/
theorem Panel.read_dropHalf (cfg : Params) (p : Panel) (x y : Nat) :
    (p.dropHalf cfg).fb.read x y = p.pixelAfterDrop cfg x y := by
  unfold Panel.dropHalf Panel.pixelAfterDrop
  split
  · cases p.ranges <;> cases p.rotation
    case some.some w i =>
      dsimp only
      by_cases hin : w.column p.wptr < frameW cfg i ∧ w.row p.wptr < frameH cfg i
      · have hiff : (x = w.column p.wptr ∧ y = w.row p.wptr ∧ x < frameW cfg i ∧ y < frameH cfg i) ↔
            (x = w.column p.wptr ∧ y = w.row p.wptr) :=
          ⟨fun h => ⟨h.1, h.2.1⟩, fun h => ⟨h.1, h.2, h.1 ▸ hin.1, h.2 ▸ hin.2⟩⟩
        simp only [hin, and_self, if_true, Memory.read_forget, hiff]
      · have hout : ¬(x = w.column p.wptr ∧ y = w.row p.wptr ∧ x < frameW cfg i ∧ y < frameH cfg i) := by
          rintro ⟨rfl, rfl, h⟩
          exact hin h
        rw [if_neg hin, if_neg hout]
    all_goals rfl
  · rfl

/-- What each of the four panel commands does but for its own effect: it acts on the panel that has dropped
its half pixel, and leaves the block and the trace alone. -/
theorem Panel.dropHalf_spec (s : State) :
    (s.panel.half = none ∨ s.panel.cmd = some 0x2C#8 → (s.panel.dropHalf s.params).half = none) ∧
      (s.panel.half = none → (s.panel.dropHalf s.params).fb = s.panel.fb) ∧
      ∀ x y, (s.panel.dropHalf s.params).fb.read x y = s.panel.pixelAfterDrop s.params x y :=
  ⟨Panel.dropHalf_half, fun h => by rw [Panel.dropHalf_none h], Panel.read_dropHalf s.params s.panel⟩

theorem setPanel_carried (s : State) (p : Panel) : Carried 0 s (s.setPanel p) :=
  ⟨rfl, rfl, rfl, rfl, rfl, rfl, rfl, rfl⟩

/-! ### The ranges (20_memory.md R57, R58) -/

theorem latchSpan_of_short {args : List Byte} (h : args.length < 4) (old : Option Span) :
    latchSpan args old = old := by
  unfold latchSpan
  split
  · simp at h
  · rw [if_pos h]

theorem latchSpan_of_long {args : List Byte} (h : 5 ≤ args.length) (old : Option Span) :
    latchSpan args old = none := by
  unfold latchSpan
  split
  · simp at h
  · rw [if_neg (by omega)]

theorem latchSpan_of_four_le {args : List Byte} (h : 4 ≤ args.length) (old : Option Span) :
    latchSpan args old = latchSpan args none := by
  unfold latchSpan
  split
  · rfl
  · rw [if_neg (by omega), if_neg (by omega)]

/-- From no range the bytes latch the same, one by one or all at once. -/
theorem latchSpan_concat (bs : List Byte) (b : Byte) :
    latchSpan (bs ++ [b]) (latchSpan bs none) = latchSpan (bs ++ [b]) none := by
  by_cases h : (bs ++ [b]).length < 4
  · have hbs : bs.length < 4 := by
      rw [List.length_append] at h
      omega
    rw [latchSpan_of_short hbs]
  · exact latchSpan_of_four_le (Nat.not_lt.1 h) _

theorem Panel.readBytes_columns {cfg : Params} {p : Panel} (hl : p.live = true) (hc : p.cmd = some 0x2A#8)
    (ha : p.args = []) (hcols : p.cols = none) (bs : List Byte) :
    p.readBytes cfg .high bs = { p with args := bs, cols := latchSpan bs none } := by
  induction bs using List.reverseRecOn with
  | nil =>
    rw [Panel.readBytes_nil, Panel.settle_of_live hl, latchSpan_of_short (by simp), ← ha, ← hcols]
  | append_singleton bs b ih =>
    rw [Panel.readBytes_append, ih, Panel.readBytes_single, Panel.readByte,
      Panel.data_columns (p := { p with args := bs, cols := latchSpan bs none }) hl hc, latchSpan_concat]

theorem Panel.readBytes_rows {cfg : Params} {p : Panel} (hl : p.live = true) (hc : p.cmd = some 0x2B#8)
    (ha : p.args = []) (hrows : p.rows = none) (bs : List Byte) :
    p.readBytes cfg .high bs = { p with args := bs, rows := latchSpan bs none } := by
  induction bs using List.reverseRecOn with
  | nil =>
    rw [Panel.readBytes_nil, Panel.settle_of_live hl, latchSpan_of_short (by simp), ← ha, ← hrows]
  | append_singleton bs b ih =>
    rw [Panel.readBytes_append, ih, Panel.readBytes_single, Panel.readByte,
      Panel.data_rows (p := { p with args := bs, rows := latchSpan bs none }) hl hc, latchSpan_concat]

/-- No command byte makes a range known. -/
theorem Panel.command_ranges_none (cfg : Params) (p : Panel) (c : Byte) :
    (p.cols = none → (p.command cfg c).cols = none) ∧ (p.rows = none → (p.command cfg c).rows = none) := by
  have hd := Panel.dropHalf_eq cfg p
  have hcols : (p.dropHalf cfg).cols = p.cols := by rw [hd]
  have hrows : (p.dropHalf cfg).rows = p.rows := by rw [hd]
  unfold Panel.command
  repeat' split
  all_goals simp +contextual [Panel.columnAddressSet, Panel.rowAddressSet, Panel.memoryWrite,
    Panel.memoryAccessControl, Panel.otherCommand, Panel.contentsUnknown, Panel.indeterminate, Panel.blank,
    hcols, hrows]

/-- Settles O52: the command acts on the panel with its half pixel dropped, and its data bytes latch as
`latchSpan` of them all. -/
theorem panelLatchesColumns : Obligations.PanelLatchesColumns := by
  refine ⟨fun s hl => ?_, fun cfg p bs hl hc ha hcols => ?_⟩
  · obtain ⟨hhalf, hfb, hread⟩ := Panel.dropHalf_spec s
    have he : exec .panelColumnAddressSet s = .next (s.setPanel (s.panel.dropHalf s.params).columnAddressSet) :=
      congrArg (fun q => Host.Outcome.next (s.setPanel q)) (Panel.command_columns hl)
    have heq := congrArg Panel.columnAddressSet (Panel.dropHalf_eq s.params s.panel)
    exact ⟨_, he, heq, hhalf, hfb, hread, rfl, rfl, setPanel_carried _ _⟩
  · rw [Panel.readBytes_columns hl hc ha hcols]
    refine ⟨rfl, fun h => ?_, ?_, fun h => latchSpan_of_long h none⟩
    · have hnone := latchSpan_of_short h none
      refine ⟨hnone, fun c => ?_⟩
      rw [Panel.readBytes_single]
      exact (Panel.command_ranges_none cfg _ c).1 hnone
    · rintro a b c d rfl
      rfl

/-- Settles O53: the same for the row range. -/
theorem panelLatchesRows : Obligations.PanelLatchesRows := by
  refine ⟨fun s hl => ?_, fun cfg p bs hl hc ha hrows => ?_⟩
  · obtain ⟨hhalf, hfb, hread⟩ := Panel.dropHalf_spec s
    have he : exec .panelRowAddressSet s = .next (s.setPanel (s.panel.dropHalf s.params).rowAddressSet) :=
      congrArg (fun q => Host.Outcome.next (s.setPanel q)) (Panel.command_rows hl)
    have heq := congrArg Panel.rowAddressSet (Panel.dropHalf_eq s.params s.panel)
    exact ⟨_, he, heq, hhalf, hfb, hread, rfl, rfl, setPanel_carried _ _⟩
  · rw [Panel.readBytes_rows hl hc ha hrows]
    refine ⟨rfl, fun h => ?_, ?_, fun h => latchSpan_of_long h none⟩
    · have hnone := latchSpan_of_short h none
      refine ⟨hnone, fun c => ?_⟩
      rw [Panel.readBytes_single]
      exact (Panel.command_ranges_none cfg _ c).2 hnone
    · rintro a b c d rfl
      rfl

/-- Settles O54: the command acts on the panel with its half pixel dropped, and the stream starts empty. -/
theorem panelMemoryWriteArms : Obligations.PanelMemoryWriteArms := by
  intro s hl
  obtain ⟨-, hfb, hread⟩ := Panel.dropHalf_spec s
  have he : exec .panelMemoryWrite s = .next (s.setPanel (s.panel.dropHalf s.params).memoryWrite) :=
    congrArg (fun q => Host.Outcome.next (s.setPanel q)) (Panel.command_memoryWrite hl)
  have heq := congrArg Panel.memoryWrite (Panel.dropHalf_eq s.params s.panel)
  exact ⟨_, he, heq, hfb, hread, rfl, rfl, setPanel_carried _ _⟩

/-! ### Memory access control (20_memory.md R63) -/

theorem Panel.accessControlData_first {p : Panel} (ha : p.args = []) (b : Byte) :
    p.accessControlData b = { p with args := [b], madctl := some b, fb := [] } := by
  simp [Panel.accessControlData, ha]

theorem Panel.accessControlData_second {p : Panel} (ha : p.args ≠ []) (b : Byte) :
    (p.accessControlData b).madctl = none := by
  simp [Panel.accessControlData, ha]

/-- The first data byte after 0x36. -/
theorem Panel.readBytes_accessControl {cfg : Params} {p : Panel} (hl : p.live = true)
    (hc : p.cmd = some 0x36#8) (ha : p.args = []) (b : Byte) :
    p.readBytes cfg .high [b] = { p with args := [b], madctl := some b, fb := [] } := by
  rw [Panel.readBytes_single, Panel.readByte, Panel.data_accessControl hl hc, Panel.accessControlData_first ha]

/-- Settles O55: the command acts on the panel with its half pixel dropped; the first data byte empties the
list of known pixels, and the second finds one before it. -/
theorem panelMemoryAccessControl : Obligations.PanelMemoryAccessControl := by
  refine ⟨fun s hl => ?_, fun cfg p b b' hl hc ha => ?_⟩
  · obtain ⟨hhalf, hfb, hread⟩ := Panel.dropHalf_spec s
    have he : exec .panelMemoryAccessControl s = .next (s.setPanel (s.panel.dropHalf s.params).memoryAccessControl) :=
      congrArg (fun q => Host.Outcome.next (s.setPanel q)) (Panel.command_accessControl hl)
    have heq := congrArg Panel.memoryAccessControl (Panel.dropHalf_eq s.params s.panel)
    exact ⟨_, he, heq, hhalf, hfb, hread, rfl, rfl, setPanel_carried _ _⟩
  · have hfirst := Panel.readBytes_accessControl (cfg := cfg) hl hc ha b
    refine ⟨⟨[], hfirst, Memory.read_nil⟩, ?_⟩
    rw [show [b, b'] = [b] ++ [b'] from rfl, Panel.readBytes_append, hfirst, Panel.readBytes_single,
      Panel.readByte, Panel.data_accessControl (p := { p with args := [b], madctl := some b, fb := [] }) hl hc]
    exact Panel.accessControlData_second (by simp) b'

/-! ### Other commands and loose data (20_memory.md R64, R66) -/

/-- Data bytes after another command keep the contents unknown and the context. -/
theorem Panel.readBytes_other {cfg : Params} {c : Byte} (hc : c ∉ [0x2A#8, 0x2B#8, 0x2C#8, 0x36#8])
    (bs : List Byte) :
    ({ Panel.blank true with cmd := some c } : Panel).readBytes cfg .high bs =
      { Panel.blank true with cmd := some c } := by
  induction bs with
  | nil => rfl
  | cons b bs ih =>
    rw [Panel.readBytes_cons, Panel.readByte, Panel.data_other rfl rfl hc]
    exact ih

/-- Settles O57: the command makes everything but its own context unknown, and its data bytes and loose ones
reach no content. -/
theorem otherCommandMakesContentsUnknown : Obligations.OtherCommandMakesContentsUnknown := by
  intro cfg p c bs hl hc
  refine ⟨?_, fun b hnone => ?_⟩
  · rw [Panel.readBytes_single, Panel.readByte, Panel.command_other hl hc, Panel.otherCommand,
      Panel.contentsUnknown, hl]
    exact Panel.readBytes_other hc bs
  · rw [Panel.readBytes_single, Panel.readByte, Panel.data_loose hl hnone]

/-! ### The window sequence (41_controller.md R105, R106) -/

/-- Four coordinate bytes latch the two coordinates they are the bytes of. -/
theorem latchSpan_coordinateBytes {v0 v1 : Nat} (h0 : v0 < 65536) (h1 : v1 < 65536) :
    latchSpan (coordinateBytes v0 v1) none = some ⟨v0, v1⟩ := by
  simp [latchSpan, coordinateBytes, bigEndian, Nat.mod_eq_of_lt, h0, h1]

/-- With no half pixel waiting the commands of the window protocol change only their contexts. -/
theorem Panel.readBytes_command_columns {cfg : Params} {p : Panel} (hl : p.live = true) (hh : p.half = none) :
    p.readBytes cfg .low [0x2A#8] = { p with cmd := some 0x2A#8, args := [], cols := none } := by
  rw [Panel.readBytes_single, Panel.readByte, Panel.command_columns hl, Panel.dropHalf_none hh,
    Panel.columnAddressSet]

theorem Panel.readBytes_command_rows {cfg : Params} {p : Panel} (hl : p.live = true) (hh : p.half = none) :
    p.readBytes cfg .low [0x2B#8] = { p with cmd := some 0x2B#8, args := [], rows := none } := by
  rw [Panel.readBytes_single, Panel.readByte, Panel.command_rows hl, Panel.dropHalf_none hh, Panel.rowAddressSet]

theorem Panel.readBytes_command_memoryWrite {cfg : Params} {p : Panel} (hl : p.live = true)
    (hh : p.half = none) : p.readBytes cfg .low [0x2C#8] = { p with cmd := some 0x2C#8, wptr := 0 } := by
  rw [Panel.readBytes_single, Panel.readByte, Panel.command_memoryWrite hl, Panel.dropHalf_none hh,
    Panel.memoryWrite, ← hh]

theorem Panel.readBytes_setColumns {cfg : Params} {p : Panel} {x0 x1 : Nat} (hl : p.live = true)
    (hh : p.half = none) (hx0 : x0 < 65536) (hx1 : x1 < 65536) :
    (p.readBytes cfg .low [0x2A#8]).readBytes cfg .high (coordinateBytes x0 x1) =
      { p with cmd := some 0x2A#8, args := coordinateBytes x0 x1, cols := some ⟨x0, x1⟩ } := by
  rw [Panel.readBytes_command_columns hl hh,
    Panel.readBytes_columns (p := { p with cmd := some 0x2A#8, args := [], cols := none }) hl rfl rfl rfl,
    latchSpan_coordinateBytes hx0 hx1]

theorem Panel.readBytes_setRows {cfg : Params} {p : Panel} {y0 y1 : Nat} (hl : p.live = true)
    (hh : p.half = none) (hy0 : y0 < 65536) (hy1 : y1 < 65536) :
    (p.readBytes cfg .low [0x2B#8]).readBytes cfg .high (coordinateBytes y0 y1) =
      { p with cmd := some 0x2B#8, args := coordinateBytes y0 y1, rows := some ⟨y0, y1⟩ } := by
  rw [Panel.readBytes_command_rows hl hh,
    Panel.readBytes_rows (p := { p with cmd := some 0x2B#8, args := [], rows := none }) hl rfl rfl rfl,
    latchSpan_coordinateBytes hy0 hy1]

/-- The panel that has read a window sequence holds its two ranges and an empty stream. -/
theorem Panel.readWindow_eq {cfg : Params} {p : Panel} {x0 y0 x1 y1 : Nat} (hl : p.live = true)
    (hh : p.half = none) (hx0 : x0 < 65536) (hy0 : y0 < 65536) (hx1 : x1 < 65536) (hy1 : y1 < 65536) :
    p.readWindow cfg x0 y0 x1 y1 =
      { p with cmd := some 0x2C#8, args := coordinateBytes y0 y1, cols := some ⟨x0, x1⟩,
               rows := some ⟨y0, y1⟩, wptr := 0 } := by
  rw [Panel.readWindow, Panel.readBytes_setColumns hl hh hx0 hx1,
    Panel.readBytes_setRows (p := { p with
      cmd := some 0x2A#8, args := coordinateBytes x0 x1, cols := some ⟨x0, x1⟩ }) hl hh hy0 hy1,
    Panel.readBytes_command_memoryWrite (p := { p with
      cmd := some 0x2B#8, args := coordinateBytes y0 y1, cols := some ⟨x0, x1⟩, rows := some ⟨y0, y1⟩ }) hl hh]

/-- Settles O28: with no half pixel to drop the three commands change only their contexts, and the eight data
bytes latch the two ranges. -/
theorem windowSequenceArmsThePanel : Obligations.WindowSequenceArmsThePanel := by
  intro cfg p x0 y0 x1 y1 hl hhalf hx0 hy0 hx1 hy1
  rw [Panel.readWindow_eq hl hhalf hx0 hy0 hx1 hy1]

end Sys2Proof.Machine
end

section
/-!
PROOFS. Requests that complete, and transactions that fail, answer by answer: the Framer (40_framer.md
sections 1 and 2) and the Controller State Machine (41_controller.md).
-/

namespace Sys2Proof.Machine

/-! ### A request whose body's end is known -/

theorem permittedOf_iff {i : Instr} (hi : Ordinary i) (v : Lifecycle) :
    permittedOf i v = true ↔ v ∈ permissionTable i := by
  cases i with
  | close => exact absurd rfl hi.2.2
  | reserved header operands payload => cases hi.2.1
  | panelColumnAddressSet => cases hi.1
  | panelRowAddressSet => cases hi.1
  | panelMemoryWrite => cases hi.1
  | panelMemoryAccessControl => cases hi.1
  | _ =>
    cases v <;> simp [permittedOf, permissionTable, framerPermitted, resetPermitted, initializePermitted, readyOnly]

/-- A request that its checks let run. -/
theorem exec_of_permitted {i : Instr} {s : State} (hi : Ordinary i) (hs : s.block.state ∈ permissionTable i)
    (hb : boundsOf i s = true) : exec i s = .next (endRequest s (finish (bodyOf i s))) := by
  rw [exec_eq_request hi, request, if_pos ((permittedOf_iff hi _).2 hs), if_pos hb]

theorem Carried.completed {n : Nat} {s t : State} (h : Carried n s t) :
    Carried n s (endRequest s (t.setErr .none)) := by
  obtain ⟨h1, h2, h3, h4, h5, h6, h7, h8⟩ := h
  simp [Carried, h1, h2, h3, h4, h5, h6, h7, h8]

theorem Carried.failed {n : Nat} {s t : State} (h : Carried n s t) (e : ErrCode) :
    Carried n s (endRequest s (faultEntry e t)) := by
  obtain ⟨h1, h2, h3, h4, h5, h6, h7, h8⟩ := h
  simp [Carried, faultEntry, h1, h2, h3, h4, h5, h6, h7, h8]

/-- What is carried over by two pieces is carried over by both. -/
theorem Carried.trans {m n : Nat} {s t u : State} (h : Carried m s t) (h' : Carried n t u) :
    Carried (m + n) s u := by
  obtain ⟨h1, h2, h3, h4, h5, h6, h7, h8⟩ := h
  obtain ⟨k1, k2, k3, k4, k5, k6, k7, k8⟩ := h'
  exact ⟨k1.trans h1, by rw [k2, h2, List.drop_drop], by rw [k3, h3, Nat.add_assoc], k4.trans h4, k5.trans h5,
    k6.trans h6, k7.trans h7, k8.trans h8⟩

/-- The panel of a completed request that emitted events. -/
theorem endRequest_panelAfter {s t : State} (hgrow : t.trace.length ≠ s.trace.length)
    (hlive : t.panel.live = s.panel.live) :
    (endRequest s (t.setErr .none)).panel = panelAfter s t.panel := by
  by_cases h : s.block.state = .ready
  · simp [endRequest_panel, panelAfter, h]
  · simp [endRequest_panel, panelAfter, h, hgrow, Panel.contentsUnknown, hlive]

/-- An indeterminate panel stays so at a request's end. -/
theorem endRequest_panel_of_indeterminate {s t : State} (h : t.panel = Panel.indeterminate) :
    (endRequest s t).panel = Panel.indeterminate := by
  rw [endRequest_panel]
  split <;> simp [h]

/-! ### The Framer's requests complete -/

theorem exec_of_frame {i : Instr} {dc : Level} {bs : List Byte} {s : State} (hi : Ordinary i)
    (hs : s.block.state ∈ permissionTable i) (hb : boundsOf i s = true) (hbody : bodyOf i = frame dc bs)
    (hok : s.answersOk 4) :
    ∃ t, exec i s = .next t ∧ t.trace = s.trace ++ frameEvents dc bs ∧
      t.block = { s.block with lastErr := .none, lineDC := .known dc, lineCS := .known .high } ∧
      t.panel = panelAfter s (s.panel.readBytes s.params dc bs) ∧ Carried 4 s t := by
  refine ⟨_, exec_of_permitted hi hs hb, ?_⟩
  rw [hbody, frame_ok hok, finish]
  refine ⟨endRequest_trace _ _, endRequest_block _ _, ?_, (frameDone_carried dc bs s).completed⟩
  exact endRequest_panelAfter (by simp [frameDone, frameEvents]) (Panel.readBytes_live _ _ _ _)

/-- Settles O18: the request is one transaction with DC low, of its command byte. -/
theorem sendCmdCompletes : Obligations.SendCmdCompletes := fun _ _ hs hok =>
  exec_of_frame ⟨rfl, rfl, nofun⟩ hs rfl rfl hok

/-- Settles O19: the request is one transaction with DC high, of its whole payload. -/
theorem sendDataCompletes : Obligations.SendDataCompletes := fun _ _ hs hok =>
  exec_of_frame ⟨rfl, rfl, nofun⟩ hs rfl rfl hok

/-! ### One answer at a time -/

theorem setLine_of_answers_ok {l : LineName} {lv : Level} {s : State} {rest : List Answer}
    (h : s.answers = .ok :: rest) :
    setLine l lv s = .done (lineDriven l lv s) ∧ (lineDriven l lv s).answers = rest :=
  ⟨setLine_ok (State.nextAnswer_of_answers h), by rw [lineDriven_answers, h, List.tail_cons]⟩

theorem setLine_of_answers_fail {l : LineName} {lv : Level} {s : State} {k : Nat} {rest : List Answer}
    (h : s.answers = .fail k :: rest) :
    setLine l lv s = .raised .lineControl (lineFailed l lv s) ∧ (lineFailed l lv s).answers = rest :=
  ⟨setLine_fail (State.nextAnswer_of_answers h), by rw [lineFailed_answers, h, List.tail_cons]⟩

theorem write_of_answers_ok {bs : List Byte} {s : State} {rest : List Answer} (h : s.answers = .ok :: rest) :
    write bs s = .done (bytesSent bs s) ∧ (bytesSent bs s).answers = rest :=
  ⟨write_ok (State.nextAnswer_of_answers h), by rw [bytesSent_answers, h, List.tail_cons]⟩

theorem write_of_answers_fail {bs : List Byte} {s : State} {k : Nat} {rest : List Answer}
    (h : s.answers = .fail k :: rest) :
    write bs s = .raised .transport (bytesCut bs k s) ∧ (bytesCut bs k s).answers = rest :=
  ⟨write_fail (State.nextAnswer_of_answers h), by rw [bytesCut_answers, h, List.tail_cons]⟩

/-- The CS deassert attempt with its answer: its event, and the shadow it leaves (40_framer.md R89). -/
theorem deassertAttempt_of_answers {s : State} {a : Answer} {rest : List Answer} (h : s.answers = a :: rest)
    (hp : s.panel = Panel.indeterminate) :
    deassertAttempt s = { s with
      block := { s.block with lineCS := if a = .ok then .known .high else .unknown }
      trace := s.trace ++ [.setLine .cs .high (a == .ok)]
      answers := rest
      asked := s.asked + 1 } := by
  rw [deassertAttempt_eq, State.nextAnswer_of_answers h]
  cases a <;>
    simp [lineDriven, lineFailed, State.useAnswer, State.setShadow, State.emit, State.setPanel, hp, h]

/-! ### Transactions that fail (40_framer.md R89) -/

/-- The state after a transaction whose write fails, with the deassert attempt's answer. -/
def frameCut (dc : Level) (bs : List Byte) (k : Nat) (a : Answer) (s : State) : State :=
  { s with
    block := { s.block with
      lineDC := .known dc, lineCS := if a = .ok then .known .high else .unknown }
    panel := Panel.indeterminate
    trace := s.trace ++ [.setLine .dc dc true, .setLine .cs .low true, .write bs (some (min k bs.length)),
      .setLine .cs .high (a == .ok)]
    answers := s.answers.drop 4
    asked := s.asked + 4 }

theorem frame_cut {dc : Level} {bs : List Byte} {s : State} {k : Nat} {a : Answer} {rest : List Answer}
    (h : s.answers = .ok :: .ok :: .fail k :: a :: rest) :
    frame dc bs s = .raised .transport (frameCut dc bs k a s) := by
  have hrest : rest = s.answers.drop 4 := by simp [h]
  obtain ⟨h1, h⟩ := setLine_of_answers_ok (l := .dc) (lv := dc) h
  obtain ⟨h2, h⟩ := setLine_of_answers_ok (l := .cs) (lv := .low) h
  obtain ⟨h3, h⟩ := write_of_answers_fail (bs := bs) h
  simp only [frame, h1, h2, h3, Run.andThen_done, Run.andThen_raised, Run.orDeassert_raised,
    deassertAttempt_of_answers h rfl, hrest]
  simp [frameCut, bytesCut, lineDriven, State.useAnswer, State.setShadow, State.emit, State.setPanel]

theorem frameCut_carried (dc : Level) (bs : List Byte) (k : Nat) (a : Answer) (s : State) :
    Carried 4 s (frameCut dc bs k a s) := ⟨rfl, rfl, rfl, rfl, rfl, rfl, rfl, rfl⟩

/-- A failed CS assert, with the deassert attempt's answer. -/
theorem frame_assert_fails {dc : Level} {bs : List Byte} {s : State} {k : Nat} {a : Answer} {rest : List Answer}
    (h : s.answers = .ok :: .fail k :: a :: rest) :
    ∃ t, frame dc bs s = .raised .lineControl t ∧
      t.trace = s.trace ++ [.setLine .dc dc true, .setLine .cs .low false, .setLine .cs .high (a == .ok)] ∧
      t.block = { s.block with
        lineDC := .known dc, lineCS := if a = .ok then .known .high else .unknown } := by
  obtain ⟨h1, h⟩ := setLine_of_answers_ok (l := .dc) (lv := dc) h
  obtain ⟨h2, h⟩ := setLine_of_answers_fail (l := .cs) (lv := .low) h
  simp only [frame, h1, h2, Run.andThen_done, Run.andThen_raised, Run.orDeassert_raised,
    deassertAttempt_of_answers h rfl]
  exact ⟨_, rfl, by simp [lineFailed, lineDriven], by simp [lineFailed, lineDriven]⟩

/-- A failed CS deassert after a write that succeeded. -/
theorem frame_deassert_fails {dc : Level} {bs : List Byte} {s : State} {k : Nat} {rest : List Answer}
    (h : s.answers = .ok :: .ok :: .ok :: .fail k :: rest) :
    ∃ t, frame dc bs s = .raised .lineControl t ∧
      t.trace = s.trace ++
        [.setLine .dc dc true, .setLine .cs .low true, .write bs none, .setLine .cs .high false] ∧
      t.block = { s.block with lineDC := .known dc, lineCS := .unknown } := by
  obtain ⟨h1, h⟩ := setLine_of_answers_ok (l := .dc) (lv := dc) h
  obtain ⟨h2, h⟩ := setLine_of_answers_ok (l := .cs) (lv := .low) h
  obtain ⟨h3, h⟩ := write_of_answers_ok (bs := bs) h
  obtain ⟨h4, -⟩ := setLine_of_answers_fail (l := .cs) (lv := .high) h
  simp only [frame, h1, h2, h3, h4, Run.andThen_done, Run.orDeassert_done]
  exact ⟨_, rfl, by simp [lineFailed, bytesSent, lineDriven], by simp [lineFailed, bytesSent, lineDriven]⟩

/-- Settles O17: row by row, the transaction stops at the failing event and makes its one attempt. -/
theorem frameFailureTable : Obligations.FrameFailureTable := by
  intro dc bs s k a rest
  refine ⟨fun h => ?_, frame_assert_fails, fun h => ?_, frame_deassert_fails⟩
  · obtain ⟨h1, -⟩ := setLine_of_answers_fail (l := .dc) (lv := dc) h
    exact ⟨lineFailed .dc dc s, by rw [frame, h1, Run.andThen_raised], rfl, rfl⟩
  · exact ⟨frameCut dc bs k a s, frame_cut h, rfl, rfl⟩

/-- Settles O20: the transaction is cut at its write, and the request enters `Faulted`. -/
theorem sendDataTransportFailure : Obligations.SendDataTransportFailure := by
  intro bs s k a rest hs h
  have hbody : bodyOf (.sendData bs) s = .raised .transport (frameCut .high bs k a s) := frame_cut h
  refine ⟨_, exec_of_permitted ⟨rfl, rfl, nofun⟩ hs rfl, ?_⟩
  rw [hbody, finish]
  exact ⟨endRequest_trace _ _, endRequest_block _ _, endRequest_panel_of_indeterminate rfl,
    (frameCut_carried .high bs k a s).failed .transport⟩

/-! ### RESET -/

/-- The state after a pulse all of whose line events succeed (41_controller.md R93). -/
def pulseDone (s : State) : State :=
  { s with
    block := { s.block with lineRST := .known .high }
    panel := s.panel.settle
    trace := s.trace ++ pulseEvents
    answers := s.answers.drop 3
    asked := s.asked + 3 }

theorem resetPulse_ok {s : State} (hok : s.answersOk 3) : resetPulse s = .done (pulseDone s) := by
  obtain ⟨rest, h⟩ := (State.answersOk_iff _ _).1 hok
  have hrest : rest = s.answers.drop 3 := by simp [h]
  have h : s.answers = .ok :: .ok :: .ok :: rest := h
  obtain ⟨h1, h⟩ := setLine_of_answers_ok (l := .rst) (lv := .high) h
  obtain ⟨h2, h⟩ := setLine_of_answers_ok (l := .rst) (lv := .low)
    (s := delay tRstHigh1 (lineDriven .rst .high s)) h
  obtain ⟨h3, h⟩ := setLine_of_answers_ok (l := .rst) (lv := .high)
    (s := delay tRstLow (lineDriven .rst .low (delay tRstHigh1 (lineDriven .rst .high s)))) h
  simp only [resetPulse, h1, h2, h3, Run.andThen_done]
  simp [pulseDone, lineDriven, delay, State.useAnswer, State.setShadow, State.emit, State.setPanel, pulseEvents,
    tRstHigh1, tRstLow, tRstHigh2, List.drop_drop, ← List.drop_one]

/-- Settles O22: the pulse completes, and its end resets the panel. -/
theorem resetCompletes : Obligations.ResetCompletes := by
  intro s hs hok
  have hpulse : resetPulse (s.setState .resetting) = .done (pulseDone (s.setState .resetting)) := resetPulse_ok hok
  have hbody : bodyOf .reset s = .done ((pulseDone (s.setState .resetting)).setPanel Panel.afterReset) := by
    rw [bodyOf, resetBody, hpulse, Run.andThen_done]
  have hcarried : Carried 3 s ((pulseDone (s.setState .resetting)).setPanel Panel.afterReset) :=
    ⟨rfl, rfl, rfl, rfl, rfl, rfl, rfl, rfl⟩
  refine ⟨_, exec_of_permitted ⟨rfl, rfl, nofun⟩ hs rfl, ?_⟩
  rw [hbody, finish]
  exact ⟨endRequest_trace _ _, endRequest_block _ _, endRequest_panel_of_afterReset rfl, hcarried.completed⟩

/-- A pulse whose line event number `n` fails stops there. -/
theorem resetPulse_stops {s : State} {n k : Nat} {rest : List Answer} (hn : n < 3)
    (h : s.answers = List.replicate n .ok ++ .fail k :: rest) :
    ∃ t, resetPulse s = .raised .lineControl t ∧
      t.trace = s.trace ++ pulseEvents.take (2 * n) ++ [.setLine .rst (if n = 1 then .low else .high) false] ∧
      t.block = { s.block with lineRST := .unknown } ∧ t.panel = Panel.indeterminate ∧ Carried (n + 1) s t := by
  match n, hn with
  | 0, _ =>
    obtain ⟨h1, -⟩ := setLine_of_answers_fail (l := .rst) (lv := .high) h
    refine ⟨lineFailed .rst .high s, by rw [resetPulse, h1, Run.andThen_raised], ?_⟩
    simp [lineFailed, Carried, pulseEvents]
  | 1, _ =>
    have h : s.answers = .ok :: .fail k :: rest := h
    obtain ⟨h1, h⟩ := setLine_of_answers_ok (l := .rst) (lv := .high) h
    obtain ⟨h2, -⟩ := setLine_of_answers_fail (l := .rst) (lv := .low)
      (s := delay tRstHigh1 (lineDriven .rst .high s)) h
    refine ⟨_, by rw [resetPulse, h1, Run.andThen_done, h2, Run.andThen_raised], ?_⟩
    simp [lineFailed, lineDriven, delay, Carried, pulseEvents, tRstHigh1, ← List.drop_one]
  | 2, _ =>
    have h : s.answers = .ok :: .ok :: .fail k :: rest := h
    obtain ⟨h1, h⟩ := setLine_of_answers_ok (l := .rst) (lv := .high) h
    obtain ⟨h2, h⟩ := setLine_of_answers_ok (l := .rst) (lv := .low)
      (s := delay tRstHigh1 (lineDriven .rst .high s)) h
    obtain ⟨h3, -⟩ := setLine_of_answers_fail (l := .rst) (lv := .high)
      (s := delay tRstLow (lineDriven .rst .low (delay tRstHigh1 (lineDriven .rst .high s)))) h
    refine ⟨_, by rw [resetPulse, h1, Run.andThen_done, h2, Run.andThen_done, h3, Run.andThen_raised], ?_⟩
    simp [lineFailed, lineDriven, delay, Carried, pulseEvents, tRstHigh1, tRstLow, ← List.drop_one]

/-- Settles O23: the pulse stops at its failing event, and the request enters `Faulted`. -/
theorem resetStopsAtFailingLine : Obligations.ResetStopsAtFailingLine := by
  intro s n k rest hs hn h
  obtain ⟨t, hpulse, htrace, hblock, hpanel, hcarried⟩ := resetPulse_stops (s := s.setState .resetting) hn h
  have hbody : bodyOf .reset s = .raised .lineControl t := by rw [bodyOf, resetBody, hpulse, Run.andThen_raised]
  have hcarried : Carried (n + 1) s t := hcarried
  refine ⟨_, exec_of_permitted ⟨rfl, rfl, nofun⟩ hs rfl, ?_⟩
  rw [hbody, finish]
  refine ⟨(endRequest_trace _ _).trans htrace, ?_, endRequest_panel_of_indeterminate hpanel,
    hcarried.failed .lineControl⟩
  simp [faultEntry, hblock]

/-! ### INITIALIZE -/

theorem entryEvents_pos (e : InitEntry) : 0 < (entryEvents e).length := by
  cases e with
  | wait ms => exact Nat.one_pos
  | cmd c ps => cases ps <;> exact Nat.succ_pos _

/-- Settles O24: the table's entries emit their events; they hold a command, so that the levels of CS and DC
are known, and events, so that the panel's contents are not. -/
theorem initializeCompletes : Obligations.InitializeCompletes := by
  intro s hs hvalid hok
  obtain ⟨u, hu, htrace, hanswers, hasked⟩ := emitTable_ok (s := s.setState .configuring) hok
  have hsends := emitTable_sends s.params.initTable (s.setState .configuring)
  have hquiet := hsends.quiet
  have hrst := hsends.rst
  rw [hu] at hquiet hrst
  obtain ⟨c, ps, hmem⟩ := initTable_cmd_mem hvalid
  obtain ⟨hcs, hdc⟩ := emitTable_linesIdle hmem hu
  have hbody : bodyOf .initializePanel s = .done (u.setState .ready) := by
    rw [bodyOf, initializeBody, hu, Run.andThen_done]
  have hcarried : Carried (answersOf (s.params.initTable.flatMap entryEvents)) s (u.setState .ready) :=
    ⟨hquiet.params, hanswers, hasked, hquiet.bus, hquiet.accesses, hquiet.req, hquiet.payload, hquiet.readData⟩
  have hgrow : (u.setState .ready).trace.length ≠ s.trace.length := by
    have hpos : 0 < (s.params.initTable.flatMap entryEvents).length := by
      obtain ⟨l, r, hsplit⟩ := List.append_of_mem hmem
      have := entryEvents_pos (.cmd c ps)
      simp only [hsplit, List.flatMap_append, List.flatMap_cons, List.length_append]
      omega
    rw [State.setState_trace, htrace, List.length_append, State.setState_trace]
    omega
  have hpanel := endRequest_panelAfter hgrow (hsends.done u hu)
  refine ⟨_, exec_of_permitted ⟨rfl, rfl, nofun⟩ (by simp [permissionTable, hs]) rfl, ?_⟩
  rw [hbody, finish]
  have hblock : (endRequest s ((u.setState .ready).setErr .none)).block =
      { u.block with state := .ready, lastErr := .none } := endRequest_block _ _
  refine ⟨(endRequest_trace _ _).trans htrace, ?_⟩
  rw [hblock, hpanel, panelAfter, if_neg (by simp [hs])]
  exact ⟨rfl, rfl, hquiet.rot, hquiet.claimed, hrst, hcs, hdc, rfl, hcarried.completed⟩

end Sys2Proof.Machine
end

section
/-!
PROOFS. SET_ROTATION, SET_ADDRESS_WINDOW and CLOSE, answered (41_controller.md sections 3 to 5).
-/

namespace Sys2Proof.Machine

/-! ### SET_ROTATION -/

/-- MADCTL_TABLE as the spec lists it (30_encoding.md R80). -/
theorem madctlTable_get (i : BitVec 2) : [0x48#8, 0x28#8, 0x88#8, 0xE8#8][i.toNat]? = some (madctlByte i) := by
  revert i
  decide

/-- A live panel that reads 0x36 and a byte holds that byte, and no pixel (20_memory.md R63). -/
theorem Panel.readBytes_madctl {cfg : Params} {p : Panel} (hl : p.live = true) (b : Byte) :
    ((p.readBytes cfg .low [0x36#8]).readBytes cfg .high [b]) =
      { p.dropHalf cfg with cmd := some 0x36#8, args := [b], madctl := some b, fb := [] } := by
  have hcmd : p.readBytes cfg .low [0x36#8] = (p.dropHalf cfg).memoryAccessControl := by
    rw [Panel.readBytes_single, Panel.readByte, Panel.command_accessControl hl]
  have hlive : (p.dropHalf cfg).memoryAccessControl.live = true := (Panel.dropHalf_live cfg p).trans hl
  rw [hcmd, Panel.readBytes_accessControl hlive rfl rfl]
  rfl

/-- The state after SET_ROTATION's two transactions and the write of S.ROT. -/
theorem setRotationBody_ok {s : State} (hok : s.answersOk 8) (i : BitVec 2) :
    setRotationBody i s =
      .done ((frameDone .high [madctlByte i] (frameDone .low [0x36#8] s)).setRot i) := by
  have h1 : s.answersOk 4 := State.answersOk_mono (n := 4) hok
  have h2 : (frameDone .low [0x36#8] s).answersOk 4 := State.answersOk_of_answers (m := 4) hok rfl
  rw [setRotationBody, frame_ok h1, Run.andThen_done, frame_ok h2, Run.andThen_done]

/-- In `Ready` a completed request leaves the panel as its body does. -/
theorem endRequest_of_ready {s : State} (h : s.block.state = .ready) (t : State) : endRequest s t = t :=
  if_pos (.inl h)

/-- Settles O25: the byte is MADCTL_TABLE's, and the panel reads 0x36 and then the byte. -/
theorem setRotationCompletes : Obligations.SetRotationCompletes := by
  intro r s hs hok
  have hbody : bodyOf (.setRotation r) s = _ := setRotationBody_ok hok (rotationIndex r)
  have hcarried := (frameDone_carried .low [0x36#8] s).trans
    (frameDone_carried .high [madctlByte (rotationIndex r)] (frameDone .low [0x36#8] s))
  refine ⟨madctlByte (rotationIndex r), _, ?_, exec_of_permitted ⟨rfl, rfl, nofun⟩ (by simp [permissionTable, hs]) rfl,
    ?_⟩
  · rw [← rotationIndex_toNat, madctlTable_get]
  · rw [hbody, finish, endRequest_of_ready hs]
    refine ⟨rfl, rfl, rotationIndex_toNat r, rfl, rfl, fun hl => ?_, hcarried⟩
    have hpanel := Panel.readBytes_madctl (cfg := s.params) hl (madctlByte (rotationIndex r))
    have hlive : (s.panel.dropHalf s.params).live = true := (Panel.dropHalf_live _ _).trans hl
    simp only [State.setErr_panel, State.setRot_panel, frameDone, hpanel]
    exact ⟨trivial, trivial, hlive, Memory.read_nil⟩

/-! ### SET_ADDRESS_WINDOW -/

/-- A field that is not negative has the same value read either way. -/
theorem s16_toNat {v : Half} (h : 0 ≤ v.toInt) : (s16 v).toNat = v.toNat := by
  have := v.isLt
  rw [s16, BitVec.toInt_eq_toNat_cond] at *
  split at h <;> split <;> omega

theorem coordinateBytes_toNat (v0 v1 : Half) :
    coordinateBytes v0.toNat v1.toNat = bigEndian v0 ++ bigEndian v1 := by
  simp [coordinateBytes]

theorem windowDone_carried (x0 y0 x1 y1 : Nat) (s : State) : Carried 20 s (windowDone x0 y0 x1 y1 s) :=
  ⟨rfl, rfl, rfl, rfl, rfl, rfl, rfl, rfl⟩

/-- Settles O27: the window lies in the frame, so it is sent, and its fields are not negative. -/
theorem setAddressWindowCompletes : Obligations.SetAddressWindowCompletes := by
  intro x0 y0 x1 y1 s hs hx0 hx hx1 hy0 hy hy1 hok
  have hbounds : boundsOf (.setAddressWindow x0 y0 x1 y1) s = true := decide_eq_true ⟨hx0, hx, hx1, hy0, hy, hy1⟩
  have hbody : bodyOf (.setAddressWindow x0 y0 x1 y1) s =
      .done (windowDone x0.toNat y0.toNat x1.toNat y1.toNat s) := by
    rw [bodyOf, s16_toNat hx0, s16_toNat hy0, s16_toNat (hx0.trans hx), s16_toNat (hy0.trans hy), windowSeq_ok hok]
  refine ⟨_, exec_of_permitted ⟨rfl, rfl, nofun⟩ (by simp [permissionTable, hs]) hbounds, ?_⟩
  rw [hbody, finish, endRequest_of_ready hs]
  refine ⟨?_, rfl, rfl, windowDone_carried x0.toNat y0.toNat x1.toNat y1.toNat s⟩
  simp [windowDone, windowEvents, coordinateBytes_toNat]

/-! ### CLOSE -/

theorem Answer.isOk_iff {a : Answer} : Answer.isOk a = true ↔ a = .ok := beq_iff_eq

/-- Settles O30: the loop's three answers are the oracle's next three. -/
theorem closeReleasesEveryLine : Obligations.CloseReleasesEveryLine := by
  intro s a b c rest hs hans
  obtain ⟨a', b', c', htrace, hblock, hpanel, hcarried, hanswers⟩ := closeRequest_releases hs
  obtain ⟨rfl, rfl, rfl⟩ := hanswers a b c rest hans
  simp only [Answer.isOk_iff] at hblock
  exact ⟨_, rfl, htrace, hblock, hpanel, hcarried⟩

end Sys2Proof.Machine
end

section
/-!
PROOFS. The three fill requests as one (42_pixel_fill.md sections 1 to 3): each that paints a rectangle runs
`fillSeq` on it, which completes or stops at a failing chunk.
-/

namespace Sys2Proof.Machine

/-! ### One body for the three fills -/

theorem Run.andThen_done_right (r : Run) : r.andThen .done = r := by
  cases r <;> rfl

/-- One pixel is one chunk of its pair, for every chunk size. -/
theorem pixelChunks_one (k : Nat) (c : Half) : pixelChunks k 1 c = [bigEndian c] := by
  have hpair : repeatedPair c 1 = bigEndian c := List.append_nil _
  match k with
  | 0 => simp [pixelChunks, hpair]
  | 1 => simp [pixelChunks, hpair]
  | k + 2 => simp [pixelChunks, hpair]

/-- SET_PIXEL's window and data are the fill of one pixel (42_pixel_fill.md R119). -/
theorem fillSeq_one (x y : Nat) (c : Half) (s : State) :
    fillSeq ⟨x, y, 1, 1⟩ c s = (windowSeq x y x y s).andThen (frame .high (bigEndian c)) := by
  have hframes : dataFrames [bigEndian c] = frame .high (bigEndian c) := by
    funext t
    exact Run.andThen_done_right _
  simp only [fillSeq, Nat.add_sub_cancel, Nat.mul_one, pixelChunks_one, hframes]

/-- A request that paints a rectangle is a fill of it, permitted in `Ready` alone and without a bounds check. -/
structure Fills (i : Instr) (s : State) (r : Rect) (c : Half) : Prop where
  ordinary : Ordinary i
  permitted : permissionTable i = [.ready]
  bounds : boundsOf i s = true
  body : bodyOf i s = fillSeq r c s

theorem fills_of_fillTarget {i : Instr} {s : State} {r : Rect} {c : Half} (h : fillTarget s i = some (r, c)) :
    Fills i s r c := by
  cases i with
  | fillRegion x y w ht color =>
    obtain ⟨r', hclip, hr⟩ := Option.map_eq_some_iff.1 h
    cases hr
    exact ⟨⟨rfl, rfl, nofun⟩, rfl, rfl, by simp only [bodyOf, fillRegionBody, hclip]⟩
  | fillScreen color =>
    cases h
    exact ⟨⟨rfl, rfl, nofun⟩, rfl, rfl, rfl⟩
  | setPixel x y color =>
    simp only [fillTarget] at h
    split at h <;> cases h
    next hin => exact ⟨⟨rfl, rfl, nofun⟩, rfl, rfl, by rw [bodyOf, setPixelBody, if_pos hin, fillSeq_one]⟩
  | _ => cases h

/-- What a fill paints lies in the frame and is not empty. -/
theorem fillTarget_in_frame {i : Instr} {s : State} {r : Rect} {c : Half} (hvalid : s.params.Valid)
    (h : fillTarget s i = some (r, c)) :
    1 ≤ r.w ∧ 1 ≤ r.h ∧ r.x + r.w ≤ s.width ∧ r.y + r.h ≤ s.height := by
  cases i with
  | fillRegion x y w ht color =>
    obtain ⟨r', hclip, hr⟩ := Option.map_eq_some_iff.1 h
    cases hr
    obtain ⟨hw, hh, -, -, hxw, hyh⟩ := clip_eq_some hclip
    omega
  | fillScreen color =>
    cases h
    have := State.width_pos hvalid
    have := State.height_pos hvalid
    dsimp only
    omega
  | setPixel x y color =>
    simp only [fillTarget] at h
    split at h <;> cases h
    dsimp only
    omega
  | _ => cases h

/-! ### A fill completes -/

theorem answersOf_flatMap_dataEvents (bss : List (List Byte)) :
    answersOf (bss.flatMap dataEvents) = 4 * bss.length := by
  induction bss with
  | nil => rfl
  | cons bs bss ih =>
    have hone : answersOf (dataEvents bs) = 4 := rfl
    rw [List.flatMap_cons, answersOf_append, hone, ih, List.length_cons]
    omega

theorem answersOf_windowEvents (x0 y0 x1 y1 : Nat) : answersOf (windowEvents x0 y0 x1 y1) = 20 := by
  have hcmd : ∀ b, answersOf (cmdEvents b) = 4 := fun _ => rfl
  have hdata : ∀ bs, answersOf (dataEvents bs) = 4 := fun _ => rfl
  simp only [windowEvents, answersOf_append, hcmd, hdata]

theorem answersOf_fillEvents (k : Nat) (r : Rect) (c : Half) :
    answersOf (fillEvents k r c) = 20 + 4 * (pixelChunks k (r.w * r.h) c).length := by
  rw [fillEvents, answersOf_append, answersOf_windowEvents, answersOf_flatMap_dataEvents]

theorem pixelChunks_ne_nil {pixels : Nat} (h : 1 ≤ pixels) (k : Nat) (c : Half) : pixelChunks k pixels c ≠ [] := by
  intro hnil
  have hlen := congrArg List.length (pixelChunks_flatten k pixels c)
  rw [hnil, repeatedPair_length] at hlen
  simp at hlen
  omega

/-- The state after a fill all of whose events succeed, of which `n` ask for an answer. -/
def fillDone (n : Nat) (r : Rect) (c : Half) (s : State) : State :=
  { s with
    block := { s.block with lineDC := .known .high, lineCS := .known .high }
    panel := (s.panel.readWindow s.params r.x r.y (r.x + r.w - 1) (r.y + r.h - 1)).readChunks s.params
      (pixelChunks s.params.chunkPixels (r.w * r.h) c)
    trace := s.trace ++ fillEvents s.params.chunkPixels r c
    answers := s.answers.drop n
    asked := s.asked + n }

theorem fillDone_carried (n : Nat) (r : Rect) (c : Half) (s : State) :
    Carried n s ((fillDone n r c s).setErr .none) :=
  ⟨rfl, rfl, rfl, rfl, rfl, rfl, rfl, rfl⟩

theorem fillSeq_done {n : Nat} {r : Rect} {c : Half} {s : State} (hpos : 1 ≤ r.w * r.h)
    (hn : answersOf (fillEvents s.params.chunkPixels r c) = n) (hok : s.answersOk n) :
    fillSeq r c s = .done (fillDone n r c s) := by
  rw [answersOf_fillEvents] at hn
  subst hn
  rw [fillSeq_ok hok]
  simp [dataDone, windowDone, fillDone, fillEvents, pixelChunks_ne_nil hpos, List.drop_drop, Nat.add_assoc]

theorem Fills.completes {i : Instr} {s : State} {r : Rect} {c : Half} {n : Nat} (hf : Fills i s r c)
    (hs : s.block.state = .ready) (hpos : 1 ≤ r.w * r.h)
    (hn : answersOf (fillEvents s.params.chunkPixels r c) = n) (hok : s.answersOk n) :
    exec i s = .next ((fillDone n r c s).setErr .none) := by
  rw [exec_of_permitted hf.ordinary (by simp [hf.permitted, hs]) hf.bounds, hf.body, fillSeq_done hpos hn hok,
    finish, endRequest_of_ready hs]

/-- Settles O32: the request fills its clip. -/
theorem fillRegionCompletes : Obligations.FillRegionCompletes := by
  intro x y w h color s r hs hclip hok
  have htarget : fillTarget s (.fillRegion x y w h color) = some (r, colour16 color) := by
    simp only [fillTarget, s16, hclip, Option.map_some]
  obtain ⟨hw, hh, -⟩ := clip_eq_some hclip
  exact ⟨_, (fills_of_fillTarget htarget).completes hs (Nat.mul_pos hw hh) rfl hok, rfl, rfl, rfl,
    fillDone_carried _ r (colour16 color) s⟩

/-- Settles O34: the request fills the whole frame, whose last column and row are its size less one. -/
theorem fillScreenCompletes : Obligations.FillScreenCompletes := by
  rintro color s r hvalid hs rfl hok
  have hpos : 1 ≤ s.width * s.height := Nat.mul_pos (State.width_pos hvalid) (State.height_pos hvalid)
  have hfills : Fills (.fillScreen color) s ⟨0, 0, s.width, s.height⟩ (colour16 color) := fills_of_fillTarget rfl
  refine ⟨_, hfills.completes hs hpos rfl hok, rfl, rfl, ?_, fillDone_carried _ _ (colour16 color) s⟩
  simp only [fillDone, State.setErr_panel, Nat.zero_add]

/-- Settles O36: the request fills one pixel, in one chunk. -/
theorem setPixelCompletes : Obligations.SetPixelCompletes := by
  intro x y color s hs hx0 hx hy0 hy hok
  have htarget : fillTarget s (.setPixel x y color) = some (⟨x.toNat, y.toNat, 1, 1⟩, colour16 color) := by
    simp only [fillTarget, s16, hx0, hx, hy0, hy, and_self, if_true]
    rw [← s16_toNat hx0, ← s16_toNat hy0]
  have hevents : fillEvents s.params.chunkPixels ⟨x.toNat, y.toNat, 1, 1⟩ (colour16 color) =
      windowEvents x.toNat y.toNat x.toNat y.toNat ++ dataEvents (bigEndian (colour16 color)) := by
    simp [fillEvents, pixelChunks_one]
  have hanswers : answersOf (fillEvents s.params.chunkPixels ⟨x.toNat, y.toNat, 1, 1⟩ (colour16 color)) = 24 := by
    simp [answersOf_fillEvents, pixelChunks_one]
  refine ⟨_, (fills_of_fillTarget htarget).completes hs (Nat.le_refl 1) hanswers hok, ?_, rfl, ?_,
    fillDone_carried 24 _ _ s⟩
  · simp [fillDone, hevents, bigEndian]
  · simp [fillDone, pixelChunks_one, Panel.readChunks, bigEndian]

/-! ### The fills in terms of FILL_REGION -/

/-- Requests with the same checks and, in this state, the same body. -/
theorem request_congr {permitted : Lifecycle → Bool} {inBounds : State → Bool} {body body' : State → Run}
    {s : State} (h : body s = body' s) : request permitted inBounds body s = request permitted inBounds body' s := by
  simp only [request, h]

theorem toInt_ofNat_of_le {n : Nat} (h : n ≤ 32767) : s16 (BitVec.ofNat 16 n) = n := by
  rw [s16, BitVec.toInt_eq_toNat_cond, BitVec.toNat_ofNat, Nat.mod_eq_of_lt (by omega), if_pos (by omega)]

/-- Settles O35: the clip of the whole frame is the whole frame. -/
theorem fillScreenIsFullFillRegion : Obligations.FillScreenIsFullFillRegion := by
  intro color s hvalid
  have hclip := clip_frame (State.width_pos hvalid) (State.height_pos hvalid)
  have hbody : fillScreenBody (colour16 color) s =
      fillRegionBody (s16 0) (s16 0) (s16 (BitVec.ofNat 16 s.width)) (s16 (BitVec.ofNat 16 s.height))
        (colour16 color) s := by
    rw [toInt_ofNat_of_le (State.width_le hvalid), toInt_ofNat_of_le (State.height_le hvalid)]
    simp only [fillRegionBody, show s16 0 = 0 from rfl, hclip, fillScreenBody]
  exact congrArg Host.Outcome.next (request_congr hbody)

/-- The clip of one pixel of the frame is that pixel. -/
theorem clip_pixel {fw fh : Nat} {x y : Int} (h : 0 ≤ x ∧ x < fw ∧ 0 ≤ y ∧ y < fh) :
    clip fw fh x y 1 1 = some ⟨x.toNat, y.toNat, 1, 1⟩ := by
  cases hclip : clip fw fh x y 1 1 with
  | none => exact absurd h (clip_pixel_eq_none_iff.1 hclip)
  | some r =>
    obtain ⟨hw, hh, hx, hy, hxw, hyh⟩ := clip_eq_some hclip
    obtain ⟨rx, ry, rw, rh⟩ := r
    dsimp only at *
    congr <;> omega

/-- Settles O37: one pixel's clip is EMPTY exactly where SET_PIXEL does nothing, and else is that pixel. -/
theorem setPixelIsUnitFillRegion : Obligations.SetPixelIsUnitFillRegion := by
  intro x y color s _
  have hbody : setPixelBody (s16 x) (s16 y) (colour16 color) s =
      fillRegionBody (s16 x) (s16 y) (s16 1) (s16 1) (colour16 color) s := by
    rw [show s16 1 = 1 from rfl]
    by_cases hin : 0 ≤ s16 x ∧ s16 x < s.width ∧ 0 ≤ s16 y ∧ s16 y < s.height
    · simp only [fillRegionBody, clip_pixel hin, setPixelBody, if_pos hin, fillSeq_one]
    · have hnone := clip_pixel_eq_none_iff.2 hin
      rw [fillRegionBody_of_clip_none hnone, setPixelBody_of_clip_none hnone]
  exact congrArg Host.Outcome.next (request_congr hbody)

end Sys2Proof.Machine
end

section
/-!
PROOFS. A fill that stops at a failing chunk, and what a completed fill paints (42_pixel_fill.md section 3).
-/

namespace Sys2Proof.Machine

/-! ### A failing chunk -/

theorem dataFrames_append (bss css : List (List Byte)) (s : State) :
    dataFrames (bss ++ css) s = (dataFrames bss s).andThen (dataFrames css) := by
  induction bss generalizing s with
  | nil => rfl
  | cons bs bss ih => rw [List.cons_append, dataFrames, dataFrames, Run.andThen_assoc, funext ih]

/-- The chunks before the failing one are sent, and its transaction is cut at the write. -/
theorem dataFrames_cut {bss : List (List Byte)} {n k : Nat} {bs : List Byte} {a : Answer} {rest : List Answer}
    {s : State} (hbs : bss[n]? = some bs)
    (h : s.answers = List.replicate (4 * n + 2) .ok ++ .fail k :: a :: rest) :
    dataFrames bss s = .raised .transport (frameCut .high bs k a (dataDone (bss.take n) s)) := by
  obtain ⟨hn, hget⟩ := List.getElem?_eq_some_iff.1 hbs
  have hlen : (bss.take n).length = n := List.length_take_of_le hn.le
  have hsplit : bss = bss.take n ++ bs :: bss.drop (n + 1) := by
    rw [← hget, ← List.drop_eq_getElem_cons hn, List.take_append_drop]
  have hok : s.answersOk (4 * (bss.take n).length) := by
    rw [hlen]
    exact State.answersOk_mono ((State.answersOk_iff _ _).2 ⟨_, h⟩)
  have hcut : (dataDone (bss.take n) s).answers = .ok :: .ok :: .fail k :: a :: rest := by
    simp only [dataDone, hlen, h, List.replicate_add, List.append_assoc]
    exact List.drop_left' (List.length_replicate ..)
  conv_lhs => rw [hsplit]
  rw [dataFrames_append, dataFrames_ok hok, Run.andThen_done, dataFrames, frame_cut hcut, Run.andThen_raised]

theorem dataDone_carried (bss : List (List Byte)) (s : State) :
    Carried (4 * bss.length) s (dataDone bss s) := ⟨rfl, rfl, rfl, rfl, rfl, rfl, rfl, rfl⟩

/-- The state after a fill whose chunk `bs`, the one after `sent`, fails at its write. -/
def fillCut (r : Rect) (sent : List (List Byte)) (bs : List Byte) (k : Nat) (a : Answer) (s : State) : State :=
  frameCut .high bs k a (dataDone sent (windowDone r.x r.y (r.x + r.w - 1) (r.y + r.h - 1) s))

theorem fillCut_carried (r : Rect) (sent : List (List Byte)) (bs : List Byte) (k : Nat) (a : Answer) (s : State) :
    Carried (20 + 4 * sent.length + 4) s (fillCut r sent bs k a s) :=
  ((windowDone_carried r.x r.y (r.x + r.w - 1) (r.y + r.h - 1) s).trans (dataDone_carried sent _)).trans
    (frameCut_carried .high bs k a _)

theorem fillSeq_cut {r : Rect} {c : Half} {n k : Nat} {bs : List Byte} {a : Answer} {rest : List Answer}
    {s : State} (hbs : (pixelChunks s.params.chunkPixels (r.w * r.h) c)[n]? = some bs)
    (h : s.answers = List.replicate (20 + 4 * n + 2) .ok ++ .fail k :: a :: rest) :
    fillSeq r c s =
      .raised .transport (fillCut r ((pixelChunks s.params.chunkPixels (r.w * r.h) c).take n) bs k a s) := by
  rw [Nat.add_assoc] at h
  have hok : s.answersOk 20 := State.answersOk_mono ((State.answersOk_iff _ _).2 ⟨_, h⟩)
  have hrest : (windowDone r.x r.y (r.x + r.w - 1) (r.y + r.h - 1) s).answers =
      List.replicate (4 * n + 2) .ok ++ .fail k :: a :: rest := by
    simp only [windowDone, h, List.replicate_add 20, List.append_assoc]
    exact List.drop_left' (List.length_replicate ..)
  rw [fillSeq, windowSeq_ok hok, Run.andThen_done, dataFrames_cut hbs hrest, fillCut]

/-- Settles O41: the window and the chunks before the failing one are sent, its transaction is cut at the write,
and the request enters `Faulted`. -/
theorem fillStopsAtFailingChunk : Obligations.FillStopsAtFailingChunk := by
  intro i s r c n k a rest bs hs htarget _ hbs h
  have hf := fills_of_fillTarget htarget
  have hlen : ((pixelChunks s.params.chunkPixels (r.w * r.h) c).take n).length = n :=
    List.length_take_of_le (List.getElem?_eq_some_iff.1 hbs).1.le
  have hcarried := fillCut_carried r ((pixelChunks s.params.chunkPixels (r.w * r.h) c).take n) bs k a s
  rw [hlen] at hcarried
  refine ⟨_, exec_of_permitted hf.ordinary (by simp [hf.permitted, hs]) hf.bounds, ?_⟩
  rw [hf.body, fillSeq_cut hbs h, finish]
  refine ⟨?_, ?_, endRequest_panel_of_indeterminate rfl, hcarried.failed .transport⟩
  · simp [faultEntry, fillCut, frameCut, dataDone, windowDone]
  · rw [endRequest_block]
    simp only [faultEntry, fillCut, frameCut, dataDone, windowDone]
    split <;> rfl

/-! ### Painting a window -/

/-- Is (x, y) one of the first `n` pixels of the window? -/
def Window.Covers (w : Window) (n x y : Nat) : Prop := ∃ m < n, x = w.column m ∧ y = w.row m

/-- The pixels of the whole window are those between its corners. -/
theorem Window.covers_pixels {w : Window} (hc : w.cols.first ≤ w.cols.last) (hr : w.rows.first ≤ w.rows.last)
    (x y : Nat) : w.Covers w.pixels x y ↔
      w.cols.first ≤ x ∧ x ≤ w.cols.last ∧ w.rows.first ≤ y ∧ y ≤ w.rows.last := by
  constructor
  · rintro ⟨m, hm, rfl, rfl⟩
    obtain ⟨hx, hy⟩ := Window.position_le hc hr hm
    exact ⟨Nat.le_add_right _ _, hx, Nat.le_add_right _ _, hy⟩
  · rintro ⟨hx0, hx1, hy0, hy1⟩
    have hcol : x - w.cols.first < w.rowPixels := by
      rw [Window.rowPixels]
      omega
    have hpos : 0 < w.rowPixels := Nat.succ_pos _
    refine ⟨w.rowPixels * (y - w.rows.first) + (x - w.cols.first), ?_, ?_, ?_⟩
    · calc w.rowPixels * (y - w.rows.first) + (x - w.cols.first)
          < w.rowPixels * (y - w.rows.first) + w.rowPixels := Nat.add_lt_add_left hcol _
        _ = w.rowPixels * (y - w.rows.first + 1) := rfl
        _ ≤ w.pixels := Nat.mul_le_mul_left _ (by omega)
    · rw [Window.column, Nat.mul_add_mod, Nat.mod_eq_of_lt hcol]
      omega
    · rw [Window.row, Nat.mul_add_div hpos, Nat.div_eq_of_lt hcol]
      omega

/-- `m'` is `m` with the first `n` pixels of the window in the colour. -/
def Memory.PaintedFrom (m m' : Memory) (w : Window) (n : Nat) (c : Half) : Prop :=
  ∀ x y, (w.Covers n x y → m'.read x y = some c) ∧ (¬w.Covers n x y → m'.read x y = m.read x y)

theorem Memory.paintedFrom_zero (m : Memory) (w : Window) (c : Half) : m.PaintedFrom m w 0 c := by
  refine fun x y => ⟨?_, fun _ => rfl⟩
  rintro ⟨k, hk, -⟩
  exact absurd hk (Nat.not_lt_zero k)

/-- One more pixel. -/
theorem Memory.PaintedFrom.write {m m' : Memory} {w : Window} {n : Nat} {c : Half} (h : m.PaintedFrom m' w n c) :
    m.PaintedFrom (m'.write (w.column n) (w.row n) c) w (n + 1) c := by
  intro x y
  obtain ⟨hin, hout⟩ := h x y
  rw [Memory.read_write]
  constructor
  · rintro ⟨k, hk, hx, hy⟩
    split
    · rfl
    next hne =>
      have hkn : k ≠ n := by
        rintro rfl
        exact hne ⟨hx, hy⟩
      exact hin ⟨k, by omega, hx, hy⟩
  · intro hno
    have hne : ¬(x = w.column n ∧ y = w.row n) := fun h => hno ⟨n, Nat.lt_succ_self n, h⟩
    rw [if_neg hne]
    exact hout fun ⟨k, hk, hxy⟩ => hno ⟨k, Nat.lt_succ_of_lt hk, hxy⟩

/-- The two bytes of a pixel that lies in the window (20_memory.md R60). -/
theorem Panel.readBytes_pixel {cfg : Params} {p : Panel} {w : Window} (hl : p.live = true)
    (hc : p.cmd = some 0x2C#8) (hh : p.half = none) (hw : p.window cfg = some w) (hn : p.wptr < w.pixels)
    (c : Half) : p.readBytes cfg .high (bigEndian c) =
      { p with fb := p.fb.write (w.column p.wptr) (w.row p.wptr) c, wptr := p.wptr + 1 } := by
  have hfirst : p.readBytes cfg .high [hiByte c] = { p with half := some (hiByte c) } := by
    rw [Panel.readBytes_stream hl hc, Panel.streamData_first hh]
  rw [show bigEndian c = [hiByte c] ++ [loByte c] from rfl, Panel.readBytes_append, hfirst,
    Panel.readBytes_stream (p := { p with half := some (hiByte c) }) hl hc,
    Panel.streamData_second (p := { p with half := some (hiByte c) }) rfl,
    Panel.pixel_of_window (p := { p with half := some (hiByte c) }) hw, fromBigEndian_bytes]
  simp only [Panel.fbAfterPixel, if_pos hn, ← hh]

/-- A stream of one colour paints the window pixel by pixel. -/
theorem Panel.readBytes_repeatedPair {cfg : Params} {p : Panel} {w : Window} (hl : p.live = true)
    (hc : p.cmd = some 0x2C#8) (hh : p.half = none) (hptr : p.wptr = 0) (hw : p.window cfg = some w) (c : Half)
    {n : Nat} (hn : n ≤ w.pixels) :
    ∃ fb, p.readBytes cfg .high (repeatedPair c n) = { p with fb := fb, wptr := n } ∧
      p.fb.PaintedFrom fb w n c := by
  induction n with
  | zero =>
    refine ⟨p.fb, ?_, Memory.paintedFrom_zero _ _ _⟩
    rw [repeatedPair, List.replicate_zero, List.flatten_nil, Panel.readBytes_nil, Panel.settle_of_live hl, ← hptr]
  | succ n ih =>
    obtain ⟨fb, hread, hpainted⟩ := ih (Nat.le_of_succ_le hn)
    have hone : repeatedPair c 1 = bigEndian c := List.append_nil _
    refine ⟨_, ?_, hpainted.write⟩
    rw [repeatedPair_add, hone, Panel.readBytes_append, hread]
    exact Panel.readBytes_pixel (p := { p with fb := fb, wptr := n }) hl hc hh hw hn c

/-- How a stream is cut into transactions makes no difference to a live panel. -/
theorem Panel.readChunks_eq {cfg : Params} {p : Panel} (hl : p.live = true) (chunks : List (List Byte)) :
    p.readChunks cfg chunks = p.readBytes cfg .high chunks.flatten := by
  induction chunks generalizing p with
  | nil => exact (Panel.settle_of_live hl).symm
  | cons bs chunks ih =>
    rw [List.flatten_cons, Panel.readBytes_append, ← ih (by rw [Panel.readBytes_live, hl])]
    rfl

/-- The panel that has read the window sequence of a rectangle. -/
def Panel.armed (r : Rect) (p : Panel) : Panel :=
  { p with
    cmd := some 0x2C#8, args := coordinateBytes r.y (r.y + r.h - 1), cols := some ⟨r.x, r.x + r.w - 1⟩
    rows := some ⟨r.y, r.y + r.h - 1⟩, wptr := 0 }

/-- The window of a rectangle. -/
def Rect.window (r : Rect) : Window := ⟨⟨r.x, r.x + r.w - 1⟩, ⟨r.y, r.y + r.h - 1⟩⟩

theorem Rect.window_pixels {r : Rect} (hw : 1 ≤ r.w) (hh : 1 ≤ r.h) : r.window.pixels = r.w * r.h := by
  simp only [Rect.window, Window.pixels, Window.rowPixels]
  congr 1 <;> omega

/-- The pixels of a rectangle's window are the rectangle's. -/
theorem Rect.window_covers {r : Rect} (hw : 1 ≤ r.w) (hh : 1 ≤ r.h) (x y : Nat) :
    r.window.Covers (r.w * r.h) x y ↔ r.x ≤ x ∧ x < r.x + r.w ∧ r.y ≤ y ∧ y < r.y + r.h := by
  rw [← Rect.window_pixels hw hh, Window.covers_pixels] <;> simp only [Rect.window] <;> omega

theorem Panel.armed_window {cfg : Params} {p : Panel} {r : Rect} {i : BitVec 2}
    (hm : p.madctl = some (madctlByte i)) (hw : 1 ≤ r.w) (hh : 1 ≤ r.h) (hx : r.x + r.w ≤ frameW cfg i)
    (hy : r.y + r.h ≤ frameH cfg i) : (p.armed r).window cfg = some r.window := by
  refine Panel.window_eq_some rfl rfl ?_ ?_ (Panel.rotation_eq_some_iff.2 hm) ?_ ?_ <;>
    simp only [Rect.window] <;> omega

/-- The panel at the end of a fill of a rectangle in its frame. -/
theorem Panel.fill_paints {cfg : Params} {p : Panel} {r : Rect} {i : BitVec 2} (hl : p.live = true)
    (hh : p.half = none) (hm : p.madctl = some (madctlByte i)) (hw : 1 ≤ r.w) (hht : 1 ≤ r.h)
    (hx : r.x + r.w ≤ frameW cfg i) (hy : r.y + r.h ≤ frameH cfg i) (hW : frameW cfg i ≤ 32767)
    (hH : frameH cfg i ≤ 32767) (c : Half) (k : Nat) :
    ∃ fb, (p.readWindow cfg r.x r.y (r.x + r.w - 1) (r.y + r.h - 1)).readChunks cfg
        (pixelChunks k (r.w * r.h) c) = { p.armed r with fb := fb, wptr := r.w * r.h } ∧
      ∀ x y, fb.read x y =
        if r.x ≤ x ∧ x < r.x + r.w ∧ r.y ≤ y ∧ y < r.y + r.h then some c else p.fb.read x y := by
  have harmed : p.readWindow cfg r.x r.y (r.x + r.w - 1) (r.y + r.h - 1) = p.armed r :=
    Panel.readWindow_eq hl hh (by omega) (by omega) (by omega) (by omega)
  have hlive : (p.armed r).live = true := hl
  obtain ⟨fb, hread, hpainted⟩ := Panel.readBytes_repeatedPair hlive rfl hh rfl
    (Panel.armed_window hm hw hht hx hy) c (Rect.window_pixels hw hht).ge
  rw [harmed, Panel.readChunks_eq hlive, pixelChunks_flatten]
  refine ⟨fb, hread, fun x y => ?_⟩
  obtain ⟨hin, hout⟩ := hpainted x y
  rw [Rect.window_covers hw hht] at hin hout
  split
  next hxy => exact hin hxy
  next hxy => exact hout hxy

/-- Settles O40: the panel arms the window and reads the chunks as one stream of the colour, which paints the
window and nothing else. -/
theorem fillPaintsThePicture : Obligations.FillPaintsThePicture := by
  intro i s r c hvalid hs hl hm hh htarget hok
  obtain ⟨hw, hht, hx, hy⟩ := fillTarget_in_frame hvalid htarget
  obtain ⟨fb, hpanel, hread⟩ := Panel.fill_paints (cfg := s.params) hl hh hm hw hht hx hy (State.width_le hvalid)
    (State.height_le hvalid) c s.params.chunkPixels
  refine ⟨_, (fills_of_fillTarget htarget).completes hs (Nat.mul_pos hw hht) rfl hok, rfl, ?_⟩
  simp only [State.setErr_panel, fillDone, hpanel]
  exact ⟨hread, rfl, rfl, rfl, trivial, hh, rfl, hl⟩

end Sys2Proof.Machine
end
